-- ==== Sys2Proof/Word.lean ====
section
/-! DEFINITION. The word types of the HV/display core: the 32-bit command word (R58), the 4-bit digit code (R15),
the 6-bit mask (R31), a tube position (R9: N_POS = 6), and the frame and dwell table indexed by position (R30, R32). -/

namespace Sys2Proof

/-- A command word on the CMD port (R58). -/
abbrev Word := BitVec 32

/-- A 4-bit digit code: 0 to 9 are decimal digits and 15 is BLANK (R15). -/
abbrev Digit := BitVec 4

/-- A 6-bit on/off mask or a set of anode lines; bit `i` stands for position `i` (R31, R33). -/
abbrev Mask := BitVec 6

/-- A tube position, 0 (rightmost) to 5 (leftmost) (R9 N_POS, R30). -/
abbrev Position := Fin 6

/-- A display frame: one digit code for each position (R30). -/
abbrev Frame := Vector Digit 6

/-- A dwell table: one 16-bit count for each position (R32). -/
abbrev DwellTable := Vector (BitVec 16) 6

/-- The sentinel BLANK, "no digit driven" (R15). -/
def blankDigit : Digit := 15#4

/-- Every position on, `0b111111` (R42, R102). -/
def allOn : Mask := 63#6

end Sys2Proof
end

