-- ==== Sys2Proof/Config.lean ====
section
/-! DEFINITION. The parameters of R9: the source values as named constants (I17), the OPEN values as the plain record
`Params` with the constraints of R10, the host's own OPEN parameters, the reference configuration RC (test vectors
only), and the free values: opaque constants that nothing in Lean can evaluate. -/

namespace Sys2Proof.Config

/-! ## Source values (R9; I17: each is one named constant) -/

/-- REG_FAR: an error above this many counts takes the far step. -/
def regFar : Nat := 20
/-- REG_NEAR: an error above this many counts (and not above REG_FAR) takes the middle step. -/
def regNear : Nat := 10
/-- REG_STEP_FAR. -/
def regStepFar : Nat := 50
/-- REG_STEP_MID. -/
def regStepMid : Nat := 5
/-- REG_STEP_NEAR. -/
def regStepNear : Nat := 1
/-- CAL_V_OFFSET: volts added to the target in CAL passes 1 and 4. -/
def calVOffset : Nat := 5
/-- CAL_EVERY: the pulse width moves on every 8th iteration of CAL passes 2 and 3. -/
def calEvery : Nat := 8
/-- CAL_P3_OFFSET: where CAL pass 3 starts above `bottom`. -/
def calP3Offset : Nat := 50
/-- DWELL_MIN. -/
def dwellMin : Nat := 500
/-- DWELL_MAX. -/
def dwellMax : Nat := 2000
/-- FAULT_CYCLES: blink cycles of one fault report. -/
def faultCycles : Nat := 4
/-- FAULT_CODE_HWABSENT. -/
def faultCodeHwAbsent : Nat := 0
/-- FAULT_ON_MASK = 0b110001 (R96). -/
def faultOnMask : Mask := 0b110001#6
/-- TARGET_MIN_V, the host's least stored target (decision D39). -/
def targetMinV : Nat := 170
/-- TARGET_MAX_V, the host's greatest stored target (decision D39). -/
def targetMaxV : Nat := 200
/-- EMA_N, the inverse decay of the moving average (decision D19, I15). -/
def emaN : Nat := 800

/-! ## OPEN values of the core -/

/-- The OPEN parameters the core itself reads (R9). A machine is built with one such record and never changes it;
`Machine.State` carries it so that every claim ranges over every part. -/
structure Params where
  /-- PWM_PULSE_MIN -/
  pulseMin : Nat
  /-- PWM_PULSE_MAX -/
  pulseMax : Nat
  /-- PWM_TOP_MIN -/
  topMin : Nat
  /-- PWM_TOP_MAX -/
  topMax : Nat
  /-- SAFETY_MARGIN -/
  margin : Nat
  /-- PULSE_DEFAULT -/
  pulseDefault : Nat
  /-- TOP_DEFAULT -/
  topDefault : Nat
  /-- TARGET_DEFAULT -/
  targetDefault : Nat
  /-- R_HIGH -/
  rHigh : Nat
  /-- R_LOW -/
  rLow : Nat
  /-- VREF_MV -/
  vrefMv : Nat
  /-- ADC_BITS -/
  adcBits : Nat
  /-- CAL_P1_ITERS -/
  calP1Iters : Nat
  /-- CAL_P4_ITERS -/
  calP4Iters : Nat
  /-- DWELL_DEFAULT -/
  dwellDefault : Nat
  deriving DecidableEq, Repr, Inhabited

/-- The constraints of R10, which a claim takes as a hypothesis. The bounds on EMA_N hold of the constant `emaN`. -/
abbrev Params.Valid (p : Params) : Prop :=
  p.pulseMin ≤ p.pulseMax ∧
  p.topMin ≤ p.topMax ∧ p.topMax ≤ 0xFFFF ∧
  p.pulseMax + p.margin ≤ p.topMax ∧
  p.pulseMin ≤ p.pulseDefault ∧ p.pulseDefault ≤ p.pulseMax ∧
  p.topMin ≤ p.topDefault ∧ p.topDefault ≤ p.topMax ∧
  p.pulseDefault + p.margin ≤ p.topDefault ∧
  p.targetDefault ≤ 255 ∧
  0 < p.rLow ∧ 0 < p.vrefMv ∧
  1 ≤ p.adcBits ∧ p.adcBits ≤ 16 ∧
  emaN * (2 ^ p.adcBits - 1) < 2 ^ 32 ∧
  dwellMin ≤ p.dwellDefault ∧ p.dwellDefault ≤ dwellMax

/-- The reference configuration RC (R9, D40). It serves test vectors only and claims nothing about a real part. -/
def rc : Params where
  pulseMin := 10
  pulseMax := 400
  topMin := 100
  topMax := 2000
  margin := 20
  pulseDefault := 50
  topDefault := 500
  targetDefault := 180
  rHigh := 99
  rLow := 1
  vrefMv := 2048
  adcBits := 10
  calP1Iters := 4
  calP4Iters := 4
  dwellDefault := 1000

/-- The parameters of the part at hand (I14: each is OPEN). It has no body, so no proof can use a value of it. -/
opaque part : Params

/-! ## The clock collaborator's answer -/

/-- The clock collaborator's answer to `now()` (R16). -/
structure ClockAnswer where
  year : Nat
  month : Nat
  day : Nat
  hour : Nat
  minute : Nat
  second : Nat
  weekday : Nat
  deriving DecidableEq, Repr, Inhabited

/-- The ranges R16 assumes of a clock answer. -/
abbrev ClockAnswer.InRange (t : ClockAnswer) : Prop :=
  1 ≤ t.month ∧ t.month ≤ 12 ∧ 1 ≤ t.day ∧ t.day ≤ 31 ∧ t.hour ≤ 23 ∧ t.minute ≤ 59 ∧ t.second ≤ 59

/-! ## What arrives from outside -/

/-- A move of the world outside the core (R8, R124, R126), or the core's turn. -/
inductive Input where
  /-- the core performs one STEP -/
  | run
  /-- an edge of the 1 Hz signal (R114) -/
  | tick
  /-- the host has the clock collaborator start the 1 Hz signal (R114, R128 step 5) -/
  | startTick
  /-- the host offers a word on CMD (R124, R126) -/
  | offer (w : Word)
  /-- RESET is asserted (R127) -/
  | reset
  deriving DecidableEq, Repr, Inhabited

/-! ## OPEN values of the host (R9; no rule of the core reads them) -/

/-- The host's OPEN parameters: they appear only in the host contract (Machine/HostContract.lean). -/
structure HostParams where
  /-- FAULT_CODE_POWERLOSS, a digit 0 to 9 (D41) -/
  powerLossCode : Nat
  /-- FALLBACK_DATETIME -/
  fallback : ClockAnswer
  /-- YEAR_BASE -/
  yearBase : Nat
  /-- FEEDBACK_ENABLED -/
  feedbackEnabled : Bool
  /-- STORE_BASE -/
  storeBase : Nat
  /-- FLAG_TRUE, a set flag -/
  flagTrue : BitVec 8
  /-- the byte of a cleared flag: R45 leaves the encoding of both flag bytes OPEN -/
  flagClear : BitVec 8
  /-- FIRST_RUN_POLICY: whether the host acts on the first-run flag; what it then does is OPEN. No definition reads it: a
  dutiful boot holds no move for the flag (log entry 23). -/
  actsOnFirstRun : Bool
  deriving DecidableEq, Repr

/-- What a claim may assume of the host's parameters: a digit for the power-loss code (D41); and, the model's own choices, a
cleared flag that is not a set one (log entry 19) and a FALLBACK_DATETIME in the ranges R16 assumes of a clock answer, on
which R9 and R10 put no constraint (log entry 21). No statement rests on the last two. -/
abbrev HostParams.Valid (h : HostParams) : Prop := h.powerLossCode ≤ 9 ∧ h.flagClear ≠ h.flagTrue ∧ h.fallback.InRange

/-! ## Free values (R16, R126)

Where the environment's queues in `Machine.State` hold no answer, a draw takes the value of one of these constants at
the draw counter. They have no body: nothing constrains them. -/

/-- A raw ADC sample (R16, I2). -/
opaque freeAdc : Nat → Nat
/-- A pass count (R16, I5). -/
opaque freePasses : Nat → Nat
/-- A digit (R16, I3, I4). -/
opaque freeDigit : Nat → Digit
/-- A mask (R16, I4). -/
opaque freeMask : Nat → Mask
/-- A clock answer (R16). -/
opaque freeClock : Nat → ClockAnswer
/-- What arrives next, for ever (R126: a run may be an infinite sequence of accepted words). -/
opaque freeInput : Nat → Input

end Sys2Proof.Config
end

