-- ==== Sys2Proof/Machine/Operands.lean ====
section
/-! DEFINITION. Every operand form of the command set: the range checks of R61 (positions, digits, hours, minutes and
seconds, fault codes, register indices), and the narrowing of an integer to a register (R12). Every operand is an
unsigned immediate taken from its field, zero-extended (R60). -/

namespace Sys2Proof.Machine

/-- A DigitValue: 0 to 9, or BLANK (R15). -/
def isDigitValue (d : Digit) : Bool := decide (d.toNat ≤ 9) || d == blankDigit

/-- A position operand: A <= 5 (R61, WRLIVE and WRDWELL). -/
def position? (a : BitVec 8) : Option Position :=
  if h : a.toNat < 6 then some ⟨a.toNat, h⟩ else none

/-- An hour operand: A <= 23 (R61, SHOWTIME). -/
def isHour (h : BitVec 8) : Bool := decide (h.toNat ≤ 23)

/-- A minute or second operand: at most 59 (R61, SHOWTIME). -/
def isMinSec (m : BitVec 8) : Bool := decide (m.toNat ≤ 59)

/-- A fault code operand: A <= 9 (R61, FAULT). -/
def isFaultCode (c : BitVec 8) : Bool := decide (c.toNat ≤ 9)

/-- A mapped register index (R40): every other index is reserved. -/
def isMappedIndex (x : BitVec 8) : Bool :=
  let n := x.toNat
  decide (n ≤ 0x0B) || (decide (0x10 ≤ n) && decide (n ≤ 0x15)) || (decide (0x18 ≤ n) && decide (n ≤ 0x1D)) ||
    (decide (0x20 ≤ n) && decide (n ≤ 0x25)) || (decide (0x28 ≤ n) && decide (n ≤ 0x2C))

/-- `clamp(v, lo, hi) = min(max(v, lo), hi)` on the integers (R12). -/
def clamp (v lo hi : Int) : Int := min (max v lo) hi

/-- Narrows an integer to a 16-bit register. Each use is in range by construction (R12). -/
def reg16 (z : Int) : BitVec 16 := BitVec.ofInt 16 z

/-- The digit code of a decimal digit 0 to 9 (R15). -/
def toDigit (n : Nat) : Digit := BitVec.ofNat 4 n

/-- The units digit of a two-digit decimal value. -/
def units (n : Nat) : Digit := toDigit (n % 10)

/-- The tens digit of a two-digit decimal value. -/
def tens (n : Nat) : Digit := toDigit (n / 10)

/-- The mask with exactly bit `p` set, `1 << p` (R83, R94). -/
def bitAt (p : Position) : Mask := 1#6 <<< p.val

end Sys2Proof.Machine
end

