-- ==== Sys2Proof/Syntax.lean ====
section
/-! DEFINITION. The 20 commands of the opcode map (R61), one constructor per row of spec/opcode_table.json, each with its
raw operand fields at the widths the map gives them. An operand that fits its field and is out of range is a term here
and not a well-formed one (WellFormed.lean): the core answers it with IllegalCommand (R60, R66). -/

namespace Sys2Proof

/-- A command (R61). -/
inductive Instr where
  /-- HVEN, OP 0x01 (R72) -/
  | hven
  /-- HVDIS, OP 0x02 (R73) -/
  | hvdis
  /-- SETON value, OP 0x03 (R74) -/
  | seton (value : BitVec 16)
  /-- SETTOP value, OP 0x04 (R75) -/
  | settop (value : BitVec 16)
  /-- SETTGT volts, OP 0x05 (R76) -/
  | settgt (volts : BitVec 8)
  /-- THRESH volts, OP 0x06 (R77) -/
  | thresh (volts : BitVec 16)
  /-- SAMPLE, OP 0x07 (R78) -/
  | sample
  /-- REGSTEP, OP 0x08 (R79) -/
  | regstep
  /-- CAL, OP 0x09 (R80) -/
  | cal
  /-- BCD digit, OP 0x10 (R87) -/
  | bcd (digit : BitVec 4)
  /-- WRLIVE position, digit, OP 0x11 (R88) -/
  | wrlive (pos : BitVec 8) (digit : BitVec 4)
  /-- WRMASK mask, OP 0x12 (R89) -/
  | wrmask (mask : BitVec 6)
  /-- WRDWELL position, count, OP 0x13 (R90) -/
  | wrdwell (pos : BitVec 8) (count : BitVec 16)
  /-- SHOWTIME hour, minute, second, OP 0x14 (R91) -/
  | showtime (hour : BitVec 8) (minute : BitVec 8) (second : BitVec 8)
  /-- RENDER, OP 0x15 (R92) -/
  | render
  /-- DEPOISON count, OP 0x20 (R94) -/
  | depoison (rep : BitVec 16)
  /-- FAULT code, blocking, OP 0x21 (R98) -/
  | fault (code : BitVec 8) (blocking : Bool)
  /-- BTNMODE, OP 0x30 (R101) -/
  | btnmode
  /-- BTNADJ, OP 0x31 (R103) -/
  | btnadj
  /-- RDREG index, OP 0x40 (R109) -/
  | rdreg (index : BitVec 8)
  deriving DecidableEq, Repr

end Sys2Proof
end

