-- ==== Sys2Proof/WellFormed.lean ====
section
/-! DEFINITION. Well-formed commands: every operand in the range R61 gives it. A command that is not well formed raises
IllegalCommand (R60, R110 case 3). -/

namespace Sys2Proof

/-- The operand range checks of R61, one line per command. -/
def Instr.wellFormed : Instr → Bool
  | .hven => true
  | .hvdis => true
  | .seton _ => true
  | .settop _ => true
  | .settgt _ => true
  | .thresh _ => true
  | .sample => true
  | .regstep => true
  | .cal => true
  | .bcd d => Machine.isDigitValue d
  | .wrlive p d => (Machine.position? p).isSome && Machine.isDigitValue d
  | .wrmask _ => true
  | .wrdwell p _ => (Machine.position? p).isSome
  | .showtime h m s => Machine.isHour h && Machine.isMinSec m && Machine.isMinSec s
  | .render => true
  | .depoison _ => true
  | .fault c _ => Machine.isFaultCode c
  | .btnmode => true
  | .btnadj => true
  | .rdreg x => Machine.isMappedIndex x

end Sys2Proof
end

