-- ==== Sys2Proof/Decode.lean ====
section
/-! DEFINITION. The command decoder and encoder, written from the opcode map (R58, R59, R61), and the mask/match table
(R62). The decoder is total: a word that no row spells is refused with `none` (R63), and the machine then raises
IllegalCommand. Operand ranges are checked after decoding (R64), by each command's meaning. -/

namespace Sys2Proof

/-! ## Fields of a word (R58) -/

/-- OP, bits 31:24. -/
def opField (w : Word) : BitVec 8 := w.extractLsb' 24 8
/-- A, bits 23:16. -/
def aField (w : Word) : BitVec 8 := w.extractLsb' 16 8
/-- B, bits 15:0. -/
def bField (w : Word) : BitVec 16 := w.extractLsb' 0 16

/-- The word `{OP, A, B}` (R58). -/
def packWord (op a : BitVec 8) (b : BitVec 16) : Word := op ++ a ++ b

/-! ## Decoding -/

/-- A command of format F0: both operand fields reserved (R59). -/
def formF0 (a : BitVec 8) (b : BitVec 16) (i : Instr) : Option Instr :=
  if a = 0#8 ∧ b = 0#16 then some i else none

/-- A command of format FB: A reserved, and the bits of B from `n` up reserved (R59, R61). -/
def formFB (n : Nat) (a : BitVec 8) (b : BitVec 16) (i : Instr) : Option Instr :=
  if a = 0#8 ∧ b >>> n = 0#16 then some i else none

/-- A command of format FAB: the bits of B from `n` up reserved (R59, R61). -/
def formFAB (n : Nat) (b : BitVec 16) (i : Instr) : Option Instr :=
  if b >>> n = 0#16 then some i else none

/-- The OP lookup and the reserved-bit checks, in that order (R61, R63, R64). -/
def decodeFields (op a : BitVec 8) (b : BitVec 16) : Option Instr :=
  match op.toNat with
  | 0x01 => formF0 a b .hven
  | 0x02 => formF0 a b .hvdis
  | 0x03 => formFB 16 a b (.seton b)
  | 0x04 => formFB 16 a b (.settop b)
  | 0x05 => formFB 8 a b (.settgt (b.extractLsb' 0 8))
  | 0x06 => formFB 16 a b (.thresh b)
  | 0x07 => formF0 a b .sample
  | 0x08 => formF0 a b .regstep
  | 0x09 => formF0 a b .cal
  | 0x10 => formFB 4 a b (.bcd (b.extractLsb' 0 4))
  | 0x11 => formFAB 4 b (.wrlive a (b.extractLsb' 0 4))
  | 0x12 => formFB 6 a b (.wrmask (b.extractLsb' 0 6))
  | 0x13 => formFAB 16 b (.wrdwell a b)
  | 0x14 => formFAB 16 b (.showtime a (b.extractLsb' 8 8) (b.extractLsb' 0 8))
  | 0x15 => formF0 a b .render
  | 0x20 => formFB 16 a b (.depoison b)
  | 0x21 => formFAB 1 b (.fault a (b.getLsbD 0))
  | 0x30 => formF0 a b .btnmode
  | 0x31 => formF0 a b .btnadj
  | 0x40 => formFAB 0 b (.rdreg a)
  | _ => none

/-- The command a word spells, if any (R62, R63). -/
def decode (w : Word) : Option Instr := decodeFields (opField w) (aField w) (bField w)

/-- The decoder on a word given as a number, for the host (bit 0 is the least significant bit of the word). Every
command is exactly one 32-bit word (R65), so bits above `nbits` are zero. -/
def decodeTableWord (nbits w : Nat) : Option Instr := decode (BitVec.ofNat 32 (w % 2 ^ nbits))

/-! ## Encoding (R61, R66: each operand in its field, every reserved bit 0) -/

/-- The opcode of a command (R61). -/
def opcode : Instr → BitVec 8
  | .hven => 0x01#8
  | .hvdis => 0x02#8
  | .seton _ => 0x03#8
  | .settop _ => 0x04#8
  | .settgt _ => 0x05#8
  | .thresh _ => 0x06#8
  | .sample => 0x07#8
  | .regstep => 0x08#8
  | .cal => 0x09#8
  | .bcd _ => 0x10#8
  | .wrlive _ _ => 0x11#8
  | .wrmask _ => 0x12#8
  | .wrdwell _ _ => 0x13#8
  | .showtime _ _ _ => 0x14#8
  | .render => 0x15#8
  | .depoison _ => 0x20#8
  | .fault _ _ => 0x21#8
  | .btnmode => 0x30#8
  | .btnadj => 0x31#8
  | .rdreg _ => 0x40#8

/-- The A field of a command (R61, column "A use"). -/
def operandA : Instr → BitVec 8
  | .hven => 0#8
  | .hvdis => 0#8
  | .seton _ => 0#8
  | .settop _ => 0#8
  | .settgt _ => 0#8
  | .thresh _ => 0#8
  | .sample => 0#8
  | .regstep => 0#8
  | .cal => 0#8
  | .bcd _ => 0#8
  | .wrlive p _ => p
  | .wrmask _ => 0#8
  | .wrdwell p _ => p
  | .showtime h _ _ => h
  | .render => 0#8
  | .depoison _ => 0#8
  | .fault c _ => c
  | .btnmode => 0#8
  | .btnadj => 0#8
  | .rdreg x => x

/-- The B field of a command (R61, column "B use"). -/
def operandB : Instr → BitVec 16
  | .hven => 0#16
  | .hvdis => 0#16
  | .seton v => v
  | .settop v => v
  | .settgt v => v.setWidth 16
  | .thresh v => v
  | .sample => 0#16
  | .regstep => 0#16
  | .cal => 0#16
  | .bcd d => d.setWidth 16
  | .wrlive _ d => d.setWidth 16
  | .wrmask m => m.setWidth 16
  | .wrdwell _ c => c
  | .showtime _ m s => m ++ s
  | .render => 0#16
  | .depoison r => r
  | .fault _ blk => (BitVec.ofBool blk).setWidth 16
  | .btnmode => 0#16
  | .btnadj => 0#16
  | .rdreg _ => 0#16

/-- The word of a command. -/
def encode (i : Instr) : Word := packWord (opcode i) (operandA i) (operandB i)

/-! ## The mask/match table (R62) -/

/-- One row of R62. -/
structure OpcodeRow where
  mask : Word
  pattern : Word
  deriving DecidableEq, Repr

/-- The 20 rows of R62, in the order of the opcode map. -/
def opcodeRows : List OpcodeRow :=
  [⟨0xFFFFFFFF#32, 0x01000000#32⟩, ⟨0xFFFFFFFF#32, 0x02000000#32⟩, ⟨0xFFFF0000#32, 0x03000000#32⟩,
   ⟨0xFFFF0000#32, 0x04000000#32⟩, ⟨0xFFFFFF00#32, 0x05000000#32⟩, ⟨0xFFFF0000#32, 0x06000000#32⟩,
   ⟨0xFFFFFFFF#32, 0x07000000#32⟩, ⟨0xFFFFFFFF#32, 0x08000000#32⟩, ⟨0xFFFFFFFF#32, 0x09000000#32⟩,
   ⟨0xFFFFFFF0#32, 0x10000000#32⟩, ⟨0xFF00FFF0#32, 0x11000000#32⟩, ⟨0xFFFFFFC0#32, 0x12000000#32⟩,
   ⟨0xFF000000#32, 0x13000000#32⟩, ⟨0xFF000000#32, 0x14000000#32⟩, ⟨0xFFFFFFFF#32, 0x15000000#32⟩] ++
  [⟨0xFFFF0000#32, 0x20000000#32⟩, ⟨0xFF00FFFE#32, 0x21000000#32⟩, ⟨0xFFFFFFFF#32, 0x30000000#32⟩,
   ⟨0xFFFFFFFF#32, 0x31000000#32⟩, ⟨0xFF00FFFF#32, 0x40000000#32⟩]

/-- A word spells a row exactly when `(W & mask) = match` (R62). -/
def OpcodeRow.spells (r : OpcodeRow) (w : Word) : Bool := w &&& r.mask == r.pattern

/-- The index of a command's row in `opcodeRows`. -/
def rowIndex : Instr → Nat
  | .hven => 0
  | .hvdis => 1
  | .seton _ => 2
  | .settop _ => 3
  | .settgt _ => 4
  | .thresh _ => 5
  | .sample => 6
  | .regstep => 7
  | .cal => 8
  | .bcd _ => 9
  | .wrlive _ _ => 10
  | .wrmask _ => 11
  | .wrdwell _ _ => 12
  | .showtime _ _ _ => 13
  | .render => 14
  | .depoison _ => 15
  | .fault _ _ => 16
  | .btnmode => 17
  | .btnadj => 18
  | .rdreg _ => 19

end Sys2Proof
end

