-- ==== Sys2Proof/Machine/Transfer.lean ====
section
/-! DEFINITION. The transfer function ThresholdFor (R69), apart from the other operations because the reset value of
`thr` is computed with it (R26). -/

namespace Sys2Proof.Machine

/-- `ThresholdFor(V)`: the raw ADC reading expected at `V` volts, saturated at 0xFFFF (R69). -/
def thresholdFor (c : Config.Params) (volts : Nat) : Nat :=
  min ((volts * 1000 * c.rLow * 2 ^ c.adcBits) / ((c.rHigh + c.rLow) * c.vrefMv)) 0xFFFF

end Sys2Proof.Machine
end

