-- ==== Sys2Proof/Machine/State.lean ====
section
/-! DEFINITION. The state of the core: every element of R20-R39, the sequencer position with the hidden state of R38 inside
it, the ports that hold a value (R124), and the model's own fields (the parameters and the environment's answers). Plain
data throughout. `State.reset` is R42. -/

namespace Sys2Proof.Machine

/-! ## Named values -/

/-- `hvlife` (R29): 0 = Disabled, 1 = Steady, 2 = Calibrating; 3 is never held. -/
inductive HvLife where
  | disabled
  | steady
  | calibrating
  deriving DecidableEq, Repr

/-- `ui` (R35): codes 0 to 6 in this order; 7 is never held. -/
inductive Ui where
  | idle
  | editMinutes
  | editHours
  | editYear
  | editMonth
  | editDay
  | showingDate
  deriving DecidableEq, Repr

/-- `pend`, the PendingDateTime draft (R36). -/
structure Pending where
  year : BitVec 7
  month : BitVec 4
  day : BitVec 5
  hour : BitVec 5
  minute : BitVec 6
  deriving DecidableEq, Repr

/-- An entry of `log`: a request sent to the clock collaborator (R39). -/
structure ClockAdjust where
  year : BitVec 7
  month : BitVec 4
  day : BitVec 5
  hour : BitVec 5
  minute : BitVec 6
  second : BitVec 6
  deriving DecidableEq, Repr

/-! ## Sequencer positions (R21, R38)

A position names the STEP the sequencer performs next. The loop variables and saved values a running rule needs are
inside it, so none is held outside the command that uses it. -/

/-- Which frame a render pass reads (R83). -/
inductive FrameSrc where
  | live
  | ovl
  deriving DecidableEq, Repr

/-- The STEP of a lit position that comes next; from SEL_ON on, `dwellLeft` is held (R83). -/
inductive PassPhase where
  | selBcd
  | selOn (dwellLeft : BitVec 16)
  | dwell (dwellLeft : BitVec 16)
  | gap
  deriving DecidableEq, Repr

/-- A place inside a render pass: the position and its next STEP (R83). -/
structure PassPos where
  i : Position
  phase : PassPhase
  deriving DecidableEq, Repr

/-- What DEPOISON holds from its first STEP on: the repeat count and `savedLive` (R94). -/
structure DepoisonCtx where
  rep : BitVec 16
  savedLive : Frame
  deriving DecidableEq, Repr

/-- A place inside DEPOISON (R94). -/
inductive DepoisonPos where
  /-- the BURST STEP of the triple `(p, r, d)` -/
  | burst (p : Position) (r : Nat) (d : Nat)
  /-- a render pass of that burst, `n` passes left including this one -/
  | pass (p : Position) (r : Nat) (d : Nat) (n : Nat) (k : PassPos)
  /-- the final STEP -/
  | restore
  deriving DecidableEq, Repr

/-- The two phases of a blink cycle (R97). -/
inductive BlinkPhase where
  | on
  | off
  deriving DecidableEq, Repr

/-- A place inside a fault report's blink cycles; `cycle` counts 1 to FAULT_CYCLES (R97, R98). -/
inductive FaultPos where
  /-- the ON or OFF STEP -/
  | mark (phase : BlinkPhase) (cycle : Nat)
  /-- a render pass of that phase, `n` passes left including this one -/
  | pass (phase : BlinkPhase) (cycle : Nat) (n : Nat) (k : PassPos)
  deriving DecidableEq, Repr

/-- What CAL holds from its first STEP on (R80). -/
structure CalCtx where
  savedLive : Frame
  savedMask : Mask
  thrCal : BitVec 16
  thrNom : BitVec 16
  deriving DecidableEq, Repr

/-- The STEPs of CAL outside its display passes (R80), with the loop variables live there. -/
inductive CalStep where
  /-- pass 1, `left` iterations left including this one -/
  | regulate1 (left : Nat)
  /-- the STEP that begins pass 2 -/
  | begin2
  /-- the sampling STEP of pass 2 -/
  | sample2 (j : Nat)
  /-- the STEP that begins pass 3 -/
  | begin3
  /-- the sampling STEP of pass 3 -/
  | sample3 (bottom : BitVec 16) (j : Nat)
  /-- the STEP that fixes the pulse width -/
  | settle (bottom : BitVec 16)
  /-- pass 4, `left` iterations left including this one -/
  | regulate4 (bottom topb : BitVec 16) (left : Nat)
  /-- the final STEP -/
  | restore
  deriving DecidableEq, Repr

/-- A place inside CAL (R80): a STEP of the search, or a display pass that comes before the STEP `after`. -/
inductive CalPos where
  | search (k : CalStep)
  /-- the content STEP of CalDisplay, `left` passes left including this one -/
  | content (left : Nat) (after : CalStep)
  /-- a render pass of CalDisplay, `left` passes left including this one -/
  | pass (left : Nat) (k : PassPos) (after : CalStep)
  deriving DecidableEq, Repr

/-- The position `k` of `Busy(cmd, k)` (R21). -/
inductive Pos where
  /-- accepted and not yet decoded: `k = 0` -/
  | start
  | render (src : FrameSrc) (k : PassPos)
  | depoison (c : DepoisonCtx) (k : DepoisonPos)
  | fault (k : FaultPos)
  /-- the last STEP of a non-blocking report -/
  | faultEnd
  | cal (c : CalCtx) (k : CalPos)
  deriving DecidableEq, Repr

/-- `seq` (R21). A blocking FAULT goes on blinking in `halted`. -/
inductive Seq where
  | idle
  | busy (cmd : Word) (k : Pos)
  | halted (k : FaultPos)
  deriving DecidableEq, Repr

/-! ## The environment (R8, R16, R124)

What arrives from outside, as data: inputs in the order they come, and queued answers to draws. -/

/-- What comes after the listed inputs (R126: a run is finite or infinite). -/
inductive Onward where
  /-- nothing more: the core runs alone -/
  | quiet
  /-- inputs for ever, which nothing constrains -/
  | free
  deriving DecidableEq, Repr

/-- The environment's inputs and answers. An empty queue stands for an answer nothing constrains (Config's free values,
applied to `drawn`); with no input listed, `onward` says what comes, the free inputs by the counter `arrived`. The model's
own fields: log entries 2 and 3. `tickOn` says whether the 1 Hz signal has been started (R114; log entry 8). -/
structure Env where
  inputs : List Config.Input
  onward : Onward
  arrived : Nat
  tickOn : Bool
  adc : List Nat
  passes : List Nat
  digits : List Digit
  masks : List Mask
  clocks : List Config.ClockAnswer
  drawn : Nat
  deriving DecidableEq, Repr

/-! ## The state -/

/-- The state of the core (R19-R39). -/
structure State where
  /-- the OPEN parameters of this part (R9); no step writes them -/
  cfg : Config.Params
  /-- `res` (R20) -/
  res : BitVec 16
  /-- `seq` (R21) -/
  seq : Seq
  /-- `err` (R22) -/
  err : Bool
  /-- `halted` (R22) -/
  halted : Bool
  /-- `on`, the PWM pulse width (R23) -/
  pwmOn : BitVec 16
  /-- `top`, the PWM period (R23) -/
  pwmTop : BitVec 16
  /-- `target`, in volts (R25) -/
  target : BitVec 8
  /-- `thr` (R26) -/
  thr : BitVec 16
  /-- `acc` (R27) -/
  acc : BitVec 32
  /-- `seeded` (R27) -/
  seeded : Bool
  /-- `gate` (R28) -/
  gate : Bool
  /-- `hvlife` (R29) -/
  hvlife : HvLife
  /-- `live[0..5]` (R30) -/
  live : Frame
  /-- `ovl[0..5]` (R30) -/
  ovl : Frame
  /-- `mask` (R31) -/
  mask : Mask
  /-- `dwell[0..5]` (R32) -/
  dwell : DwellTable
  /-- `anode` (R33) -/
  anode : Mask
  /-- `bcd` (R34) -/
  bcd : BitVec 4
  /-- `ui` (R35) -/
  ui : Ui
  /-- `pend` (R36) -/
  pend : Pending
  /-- `sec` (R37) -/
  sec : BitVec 8
  /-- `log`, oldest first (R39) -/
  log : List ClockAdjust
  /-- CMD with CMD_VALID: a word offered and not yet accepted (R124, R130) -/
  cmdIn : Option Word
  /-- 1 Hz edges whose handler STEP has not run yet (R38, R114) -/
  tickPending : Nat
  /-- the environment's inputs and answers -/
  env : Env
  deriving DecidableEq, Repr

/-- What stops the machine. Nothing does: "The core has no other exception" than IllegalCommand (R111), which is a next
state; a blocking FAULT and a hung CAL run for ever (R98, R135). So this type has no term; that is safe, since a step
that never stops cannot hide a behaviour. -/
inductive Fault where
  deriving DecidableEq, Repr

/-- Why an instruction has no meaning in this model. -/
inductive Refusal where
  /-- Raised only by an arm of `exec` whose instruction has no meaning yet (now: none). Safe: the model stops where the
  core goes on. -/
  | notModelled (mnemonic : String)
  deriving DecidableEq, Repr

/-- The outcome of a step or of a meaning. -/
abbrev Result := Host.Outcome State Fault Refusal

/-- An environment with nothing queued, nothing to come, and the 1 Hz signal not started. -/
def Env.silent : Env where
  inputs := []
  onward := .quiet
  arrived := 0
  tickOn := false
  adc := []
  passes := []
  digits := []
  masks := []
  clocks := []
  drawn := 0

/-- The state right after reset of a part with parameters `c`: the table of R42, nothing on the CMD port and no pending
edge (R127). -/
def State.resetOf (c : Config.Params) : State where
  cfg := c
  res := 0#16
  seq := .idle
  err := false
  halted := false
  pwmOn := BitVec.ofNat 16 c.pulseDefault
  pwmTop := BitVec.ofNat 16 c.topDefault
  target := BitVec.ofNat 8 c.targetDefault
  thr := BitVec.ofNat 16 (thresholdFor c c.targetDefault)
  acc := 0#32
  seeded := false
  gate := false
  hvlife := .disabled
  live := Vector.replicate 6 blankDigit
  ovl := Vector.replicate 6 blankDigit
  mask := allOn
  dwell := Vector.replicate 6 (BitVec.ofNat 16 c.dwellDefault)
  anode := 0#6
  bcd := 0b1111#4
  ui := .idle
  pend := { year := 0#7, month := 1#4, day := 1#5, hour := 0#5, minute := 0#6 }
  sec := 0#8
  log := []
  cmdIn := none
  tickPending := 0
  env := Env.silent

/-- The machine right after reset (R42), for the part at hand. -/
def State.reset : State := State.resetOf Config.part

end Sys2Proof.Machine
end

