-- ==== Sys2Proof/Machine/Flags.lean ====
section
/-! DEFINITION. The status flags and the STATUS word (R22, R41), and the smoothed reading (R27). The core has no arithmetic
flags and no condition codes (R22). -/

namespace Sys2Proof.Machine

/-- `reread`, derived from `sec` (R22, R37). -/
def reread (s : State) : Bool := decide (60 ≤ s.sec.toNat)

/-- The smoothed reading `smooth`: 0 before the first sample (R27). -/
def smooth (s : State) : Nat := if s.seeded then s.acc.toNat / Config.emaN else 0

/-- The code of `hvlife` in STATUS (R29). -/
def HvLife.code : HvLife → BitVec 2
  | .disabled => 0#2
  | .steady => 1#2
  | .calibrating => 2#2

/-- The code of `ui` in STATUS (R35). -/
def Ui.code : Ui → BitVec 3
  | .idle => 0#3
  | .editMinutes => 1#3
  | .editHours => 2#3
  | .editYear => 3#3
  | .editMonth => 4#3
  | .editDay => 5#3
  | .showingDate => 6#3

/-- STATUS (R41): bits 15:9 reserved, REREAD, UI, HVLIFE, GATE, HALTED, ERR. -/
def statusWord (s : State) : BitVec 16 :=
  0#7 ++ BitVec.ofBool (reread s) ++ s.ui.code ++ s.hvlife.code ++ BitVec.ofBool s.gate ++ BitVec.ofBool s.halted ++
    BitVec.ofBool s.err

end Sys2Proof.Machine
end

