-- ==== Sys2Proof/Machine/Ops.lean ====
section
/-! DEFINITION. The operations every meaning shares: moving `seq`, the environment draws (R16), IllegalCommand (R110), the
tick handler (R113), reset (R127) and the render pass (R81, R83). -/

namespace Sys2Proof.Machine

/-! ## The sequencer position (R21) -/

/-- Writes `seq`. -/
def State.withSeq (s : State) (q : Seq) : State := { s with seq := q }

/-- "When the command's last STEP completes, `seq` returns to `Idle`" (R21). -/
def State.finish (s : State) : State := s.withSeq .idle

/-- Goes to position `k` of the command `cmd` (R21). -/
def State.goTo (s : State) (cmd : Word) (k : Pos) : State := s.withSeq (.busy cmd k)

/-- Writes the environment. -/
def State.withEnv (s : State) (e : Env) : State := { s with env := e }

/-! ## Environment draws (R16)

Each draw has a value and leaves the environment one answer shorter. A queued answer is narrowed to the range R16 gives
the draw, so every draw is one the environment may make; with nothing queued the answer is a free value. -/

/-- The first queued answer, or the free value at the draw counter. -/
def Env.front {α : Type} (e : Env) (queue : List α) (free : Nat → α) : α :=
  match queue with
  | [] => free e.drawn
  | v :: _ => v

/-- The draw counter after a draw from `queue`: it advances when a free value was used. -/
def Env.bump {α : Type} (e : Env) (queue : List α) : Nat :=
  match queue with
  | [] => e.drawn + 1
  | _ :: _ => e.drawn

/-- `draw ADC()`: a raw sample in `[0, 2^ADC_BITS - 1]`; ADC_DATA has ADC_BITS lines (R16, R124). -/
def adcDraw (s : State) : Nat := s.env.front s.env.adc Config.freeAdc % 2 ^ s.cfg.adcBits

/-- The state after `draw ADC()`. -/
def popAdc (s : State) : State := s.withEnv { s.env with adc := s.env.adc.tail, drawn := s.env.bump s.env.adc }

/-- `draw Passes(least)`: a pass count of at least `least` (R16). -/
def passesDraw (least : Nat) (s : State) : Nat := max least (s.env.front s.env.passes Config.freePasses)

/-- The state after `draw Passes`. -/
def popPasses (s : State) : State :=
  s.withEnv { s.env with passes := s.env.passes.tail, drawn := s.env.bump s.env.passes }

/-- `draw Digit()`: a DigitValue; a code that is none stands for BLANK (R15, R16). -/
def digitDraw (s : State) : Digit :=
  let d := s.env.front s.env.digits Config.freeDigit
  if isDigitValue d then d else blankDigit

/-- The state after `draw Digit()`. -/
def popDigit (s : State) : State :=
  s.withEnv { s.env with digits := s.env.digits.tail, drawn := s.env.bump s.env.digits }

/-- The state after `n` digits drawn. -/
def popDigits : Nat → State → State
  | 0, s => s
  | n + 1, s => popDigit (popDigits n s)

/-- `draw Mask()`: any 6-bit value (R16). -/
def maskDraw (s : State) : Mask := s.env.front s.env.masks Config.freeMask

/-- The state after `draw Mask()`. -/
def popMask (s : State) : State := s.withEnv { s.env with masks := s.env.masks.tail, drawn := s.env.bump s.env.masks }

/-- Brings every field of a clock answer into the range R16 assumes. An answer in range is unchanged. -/
def narrowClock (t : Config.ClockAnswer) : Config.ClockAnswer :=
  { t with
    month := min (max t.month 1) 12
    day := min (max t.day 1) 31
    hour := min t.hour 23
    minute := min t.minute 59
    second := min t.second 59 }

/-- `draw ClockNow()` (R16). -/
def clockDraw (s : State) : Config.ClockAnswer := narrowClock (s.env.front s.env.clocks Config.freeClock)

/-- The state after `draw ClockNow()`. -/
def popClock (s : State) : State :=
  s.withEnv { s.env with clocks := s.env.clocks.tail, drawn := s.env.bump s.env.clocks }

/-! ## The exception, the interrupt and reset -/

/-- IllegalCommand (R110): `STEP { err <- 1 }`, then `seq <- Idle`, and no other effect. Nothing is saved and there is no
return from it. -/
def illegalCommand (s : State) : State := { s with err := true, seq := .idle }

/-- The tick handler's STEP (R113): it counts the second and rewrites the two seconds digits from the new `sec`, and the
STEP clears one pending edge (R114). It saves nothing, and it needs no return: the sequencer goes on where it was (R116,
R117). -/
def tickHandler (s : State) : State :=
  let sec := s.sec + 1#8
  { s with
    sec := sec
    live := (s.live.set 0 (units (sec.toNat % 60))).set 1 (tens (sec.toNat % 60))
    tickPending := s.tickPending - 1 }

/-- Reset (R127): every element at its value of R42, any command abandoned, the pending edges and the offered word
dropped. The part and its environment stay, but for the 1 Hz signal: no edge arrives before the boot starts it (R128
step 5; log entry 9). -/
def applyReset (s : State) : State := (State.resetOf s.cfg).withEnv { s.env with tickOn := false }

/-- A 1 Hz edge arrives: it is pending until its handler STEP runs. "Before the host enables it, no edge arrives" (R114). -/
def edgeArrives (s : State) : State := if s.env.tickOn then { s with tickPending := s.tickPending + 1 } else s

/-- The 1 Hz signal is started; nothing in the core masks it afterwards (R114). -/
def tickStarts (s : State) : State := s.withEnv { s.env with tickOn := true }

/-! ## The render pass (R81, R83) -/

/-- `BcdCode(d)` (R81). -/
def bcdCode (d : Digit) : BitVec 4 := if d = blankDigit then 0b1111#4 else d

/-- The frame a pass reads. -/
def State.frame (s : State) : FrameSrc → Frame
  | .live => s.live
  | .ovl => s.ovl

/-- The first position from `i` up whose mask bit is 1: a masked-off position takes no STEP (R83). -/
def nextLit (m : Mask) (i : Nat) : Option Position :=
  (List.finRange 6).find? fun p => decide (i ≤ p.val) && m.getLsbD p.val

/-- The first STEP of a pass, if any position is lit. -/
def passStart (m : Mask) : Option PassPos := (nextLit m 0).map fun p => ⟨p, .selBcd⟩

/-- The first STEP of `repeat n times: RenderPass`, with the passes left: with no position lit no pass takes a STEP. -/
def passesStart (m : Mask) (n : Nat) : Option (Nat × PassPos) :=
  if n = 0 then none else (passStart m).map fun k => (n, k)

/-- The phase that follows with `dwellLeft` left: `while dwellLeft > 0` (R83). -/
def holdPhase (dwellLeft : BitVec 16) : PassPhase := if dwellLeft = 0#16 then .gap else .dwell dwellLeft

/-- The effect of one STEP of a pass on the outputs (R83). -/
def passStep (src : FrameSrc) (k : PassPos) (s : State) : State :=
  match k.phase with
  | .selBcd => { s with bcd := bcdCode (s.frame src)[k.i] }
  | .selOn _ => { s with anode := bitAt k.i, gate := true }
  | .dwell _ => s
  | .gap => { s with anode := 0#6, gate := false }

/-- The STEP of the pass that follows; `none` when the pass has ended (R83). `dwellLeft` is loaded in SEL_BCD. -/
def passNext (k : PassPos) (s : State) : Option PassPos :=
  match k.phase with
  | .selBcd => some ⟨k.i, .selOn s.dwell[k.i]⟩
  | .selOn left => some ⟨k.i, holdPhase left⟩
  | .dwell left => some ⟨k.i, holdPhase (left - 1#16)⟩
  | .gap => (nextLit s.mask (k.i.val + 1)).map fun p => ⟨p, .selBcd⟩

/-- Where `repeat n times: RenderPass` goes after the STEP at `k` of a pass with `n` passes left, this one included. -/
def passesNext (n : Nat) (k : PassPos) (s : State) : Option (Nat × PassPos) :=
  match passNext k s with
  | some k' => some (n, k')
  | none => passesStart s.mask (n - 1)

end Sys2Proof.Machine
end

