-- ==== Sys2Proof/Machine/Regulator.lean ====
section
/-! DEFINITION. The HV regulator family but for CAL: the shared procedures SetPulseWidth (R74), SetPeriod (R75),
SampleSmoothed (R70) and RegCore (R71), and the meanings of HVEN, HVDIS, SETON, SETTOP, SETTGT, THRESH, SAMPLE and REGSTEP
(R72-R79). -/

namespace Sys2Proof.Machine

/-! ## Shared procedures -/

/-- `SetPulseWidth(v)` (R74): clamp the pulse width; raise the period only if it would break the safety margin. -/
def setPulseWidth (v : Int) (s : State) : State :=
  let o := clamp v s.cfg.pulseMin s.cfg.pulseMax
  { s with
    pwmOn := reg16 o
    pwmTop := if (s.pwmTop.toNat : Int) < o + s.cfg.margin then reg16 (o + s.cfg.margin) else s.pwmTop }

/-- `SetPeriod(v)`, `v` possibly negative (R75). -/
def setPeriod (v : Int) (s : State) : State :=
  { s with pwmTop := reg16 (max (clamp v s.cfg.topMin s.cfg.topMax) (s.pwmOn.toNat + s.cfg.margin)) }

/-- The value SampleSmoothed gives `acc` for a raw sample (R70). -/
def nextAcc (s : State) (raw : Nat) : Nat :=
  if s.seeded then s.acc.toNat - s.acc.toNat / Config.emaN + raw else raw * Config.emaN

/-- The effect of `SampleSmoothed()` (R70). -/
def sampleSmoothed (s : State) : State :=
  { popAdc s with acc := BitVec.ofNat 32 (nextAcc s (adcDraw s)), seeded := true }

/-- The value SampleSmoothed returns, read after its effect: `acc div EMA_N` (R70). -/
def reading (s : State) : Nat := s.acc.toNat / Config.emaN

/-- The step size of RegCore for a reading `r` against the threshold `t` (R71). -/
def regStepSize (r t : Nat) : Nat :=
  let m := ((r : Int) - t).natAbs
  if m > Config.regFar then Config.regStepFar
  else if m > Config.regNear then Config.regStepMid
  else Config.regStepNear

/-- The effect of `RegCore(t)` (R71); it returns the `reading` of the state it leaves. -/
def regCore (t : Nat) (s : State) : State :=
  let s1 := sampleSmoothed s
  let r := reading s1
  if r < t then setPeriod (s1.pwmTop.toNat + regStepSize r t) s1 else setPeriod (s1.pwmTop.toNat - regStepSize r t) s1

/-! ## Meanings -/

/-- HVEN (R72). -/
def execHven (s : State) : Result :=
  .next { s with
    gate := true
    hvlife := if s.hvlife = .disabled then .steady else s.hvlife
    seq := .idle }

/-- HVDIS (R73): `hvlife` has no way back to Disabled. -/
def execHvdis (s : State) : Result := .next { s with gate := false, seq := .idle }

/-- SETON value (R74). -/
def execSeton (value : BitVec 16) (s : State) : Result := .next (setPulseWidth value.toNat s).finish

/-- SETTOP value (R75). -/
def execSettop (value : BitVec 16) (s : State) : Result := .next (setPeriod value.toNat s).finish

/-- SETTGT volts (R76). -/
def execSettgt (volts : BitVec 8) (s : State) : Result :=
  .next { s with target := volts, thr := BitVec.ofNat 16 (thresholdFor s.cfg volts.toNat), seq := .idle }

/-- THRESH volts (R77): it writes `res` alone. -/
def execThresh (volts : BitVec 16) (s : State) : Result :=
  .next { s with res := BitVec.ofNat 16 (thresholdFor s.cfg volts.toNat), seq := .idle }

/-- SAMPLE (R78). -/
def execSample (s : State) : Result :=
  let s1 := sampleSmoothed s
  .next { s1 with res := BitVec.ofNat 16 (reading s1), seq := .idle }

/-- REGSTEP (R79). -/
def execRegstep (s : State) : Result :=
  let s1 := regCore s.thr.toNat s
  .next { s1 with res := BitVec.ofNat 16 (reading s1), seq := .idle }

end Sys2Proof.Machine
end

