-- ==== Sys2Proof/Machine/Calibration.lean ====
section
/-! DEFINITION. CAL (R80), STEP by STEP: the meaning performs the first STEP, and `calStep` each later one. Passes 2 and 3 have
no iteration bound, as the rule has none (I1, R135). -/

namespace Sys2Proof.Machine

/-- Goes to a place inside CAL. -/
def calGo (w : Word) (c : CalCtx) (k : CalPos) (s : State) : State := s.goTo w (.cal c k)

/-- Pass 1 from its `left` remaining iterations on; with none left, pass 2 begins. -/
def calPass1 (left : Nat) : CalStep := if left = 0 then .begin2 else .regulate1 left

/-- Pass 4 from its `left` remaining iterations on; with none left, the final STEP. -/
def calPass4 (bottom topb : BitVec 16) (left : Nat) : CalStep :=
  if left = 0 then .restore else .regulate4 bottom topb left

/-- CalDisplay (R80): `k <- draw Passes(0)`, then `k` display passes before the STEP `after`. -/
def calDisplay (w : Word) (c : CalCtx) (after : CalStep) (s : State) : State :=
  let n := passesDraw 0 s
  calGo w c (if n = 0 then .search after else .content n after) (popPasses s)

/-- The next display pass, or the STEP after the display when none is left. -/
def calDisplayNext (left : Nat) (after : CalStep) : CalPos := if left = 0 then .search after else .content left after

/-- Draws the six digits of a display frame, position 0 first, from position `i` up. -/
def drawFrame : Nat → State → State
  | 0, s => s
  | n + 1, s =>
    let s1 := drawFrame n s
    if h : n < 6 then { popDigit s1 with live := s1.live.set n (digitDraw s1) } else s1

/-- The content STEP of CalDisplay: every digit of `live` and the mask are drawn (R80, I4). -/
def calContent (s : State) : State :=
  let s1 := drawFrame 6 s
  { popMask s1 with mask := maskDraw s1 }

/-- One iteration of pass 2 whose reading is below the threshold (R80). -/
def calRaise (j : Nat) (s : State) : State :=
  if (j + 1) % Config.calEvery = 0 then setPulseWidth (s.pwmOn.toNat + 1) s else s

/-- One iteration of pass 3 whose reading is above the threshold (R80). -/
def calLower (j : Nat) (s : State) : State :=
  if (j + 1) % Config.calEvery = 0 then setPulseWidth (s.pwmOn.toNat - 1) s else s

/-- One STEP of the search (R80). -/
def calSearch (w : Word) (c : CalCtx) (k : CalStep) (s : State) : State :=
  match k with
  | .regulate1 left => calDisplay w c (calPass1 (left - 1)) (regCore c.thrCal.toNat s)
  | .begin2 => calGo w c (.search (.sample2 0)) (setPulseWidth s.cfg.pulseMin s)
  | .sample2 j =>
    let s1 := sampleSmoothed s
    if reading s1 < c.thrNom.toNat then calDisplay w c (.sample2 (j + 1)) (calRaise j s1)
    else calGo w c (.search .begin3) s1
  | .begin3 =>
    calGo w c (.search (.sample3 s.pwmOn 0)) (setPulseWidth (s.pwmOn.toNat + Config.calP3Offset) s)
  | .sample3 bottom j =>
    let s1 := sampleSmoothed s
    if c.thrNom.toNat < reading s1 then calDisplay w c (.sample3 bottom (j + 1)) (calLower j s1)
    else calGo w c (.search (.settle bottom)) s1
  | .settle bottom =>
    calGo w c (.search (calPass4 bottom s.pwmOn s.cfg.calP4Iters))
      (setPulseWidth (((bottom.toNat + s.pwmOn.toNat) / 2 : Nat)) s)
  | .regulate4 bottom topb left => calDisplay w c (calPass4 bottom topb (left - 1)) (regCore c.thrCal.toNat s)
  | .restore => { s with live := c.savedLive, mask := c.savedMask, hvlife := .steady, seq := .idle }

/-- One STEP of CAL (R80). -/
def calStep (w : Word) (c : CalCtx) (k : CalPos) (s : State) : State :=
  match k with
  | .search k => calSearch w c k s
  | .content left after =>
    let s1 := calContent s
    match passStart s1.mask with
    | some k => calGo w c (.pass left k after) s1
    | none => calGo w c (calDisplayNext (left - 1) after) s1
  | .pass left k after =>
    let s1 := passStep .live k s
    match passNext k s1 with
    | some k' => calGo w c (.pass left k' after) s1
    | none => calGo w c (calDisplayNext (left - 1) after) s1

/-- What CAL saves and computes on entry (R80). -/
def calCtxOf (s : State) : CalCtx where
  savedLive := s.live
  savedMask := s.mask
  thrCal := BitVec.ofNat 16 (thresholdFor s.cfg (s.target.toNat + Config.calVOffset))
  thrNom := s.thr

/-- CAL (R80): its first STEP. -/
def execCal (s : State) : Result :=
  .next (calGo (encode .cal) (calCtxOf s) (.search (calPass1 s.cfg.calP1Iters)) { s with hvlife := .calibrating })

end Sys2Proof.Machine
end

