-- ==== Sys2Proof/Machine/Depoison.lean ====
section
/-! DEFINITION. DEPOISON (R93, R94), STEP by STEP: the meaning performs the first STEP, and `depoisonStep` each later one. -/

namespace Sys2Proof.Machine

/-- What follows the burst `(p, r, d)`: digits fastest, then repeats, then positions from 5 down (R94). -/
def afterBurst (rep : Nat) (p : Position) (r d : Nat) : DepoisonPos :=
  if d < 9 then .burst p r (d + 1)
  else if r < rep then .burst p (r + 1) 0
  else if p = 0 then .restore
  else .burst (p - 1) 1 0

/-- The first burst; with a repeat count of 0 there is none (R94). -/
def firstBurst (rep : Nat) : DepoisonPos := if rep = 0 then .restore else .burst 5 1 0

/-- Goes to a place inside DEPOISON. -/
def depoisonGo (w : Word) (c : DepoisonCtx) (k : DepoisonPos) (s : State) : State := s.goTo w (.depoison c k)

/-- The BURST STEP (R94). -/
def burstStep (p : Position) (d : Nat) (s : State) : State :=
  { popPasses s with live := Vector.replicate 6 (toDigit d), mask := bitAt p }

/-- One STEP of DEPOISON after its first (R94). -/
def depoisonStep (w : Word) (c : DepoisonCtx) (k : DepoisonPos) (s : State) : State :=
  match k with
  | .burst p r d =>
    let s1 := burstStep p d s
    match passesStart s1.mask (passesDraw 1 s) with
    | some (n, k') => depoisonGo w c (.pass p r d n k') s1
    | none => depoisonGo w c (afterBurst c.rep.toNat p r d) s1
  | .pass p r d n k =>
    let s1 := passStep .live k s
    match passesNext n k s1 with
    | some (n', k') => depoisonGo w c (.pass p r d n' k') s1
    | none => depoisonGo w c (afterBurst c.rep.toNat p r d) s1
  | .restore => { s with live := c.savedLive, mask := allOn, seq := .idle }

/-- DEPOISON count (R94): its first STEP saves `live`. -/
def execDepoison (rep : BitVec 16) (s : State) : Result :=
  .next (depoisonGo (encode (.depoison rep)) ⟨rep, s.live⟩ (firstBurst rep.toNat) s)

end Sys2Proof.Machine
end

