-- ==== Sys2Proof/Machine/FaultDisplay.lean ====
section
/-! DEFINITION. FAULT (R96-R98), STEP by STEP: the meaning performs the first STEP, and `faultStep` each STEP of the blink
cycles. A blocking report blinks for ever in `Halted`. -/

namespace Sys2Proof.Machine

/-- The sequencer at a place inside the blink cycles: `Halted` for a blocking report, else `Busy` (R21, R98). -/
def blinkSeq (w : Option Word) (k : FaultPos) : Seq :=
  match w with
  | some w => .busy w (.fault k)
  | none => .halted k

/-- The mask of a blink phase (R97): the OFF phase lights nothing. -/
def blinkMask : BlinkPhase → Mask
  | .on => Config.faultOnMask
  | .off => 0#6

/-- What follows a phase of cycle `cycle`: the OFF phase follows the ON phase; after FAULT_CYCLES cycles a blocking report
(`w = none`) begins again and a non-blocking one performs its last STEP (R97, R98). -/
def afterPhase (w : Option Word) (phase : BlinkPhase) (cycle : Nat) : Seq :=
  match phase with
  | .on => blinkSeq w (.mark .off cycle)
  | .off =>
    if cycle < Config.faultCycles then blinkSeq w (.mark .on (cycle + 1))
    else match w with
      | some w => .busy w .faultEnd
      | none => .halted (.mark .on 1)

/-- The ON or OFF STEP (R97). -/
def blinkStep (phase : BlinkPhase) (s : State) : State := { popPasses s with mask := blinkMask phase }

/-- One STEP of the blink cycles (R97, R98); `w` is the command word of a non-blocking report. -/
def faultStep (w : Option Word) (k : FaultPos) (s : State) : State :=
  match k with
  | .mark phase cycle =>
    let s1 := blinkStep phase s
    match passesStart s1.mask (passesDraw 1 s) with
    | some (n, k') => s1.withSeq (blinkSeq w (.pass phase cycle n k'))
    | none => s1.withSeq (afterPhase w phase cycle)
  | .pass phase cycle n k =>
    let s1 := passStep .live k s
    match passesNext n k s1 with
    | some (n', k') => s1.withSeq (blinkSeq w (.pass phase cycle n' k'))
    | none => s1.withSeq (afterPhase w phase cycle)

/-- The last STEP of a non-blocking report: the fault digits stay visible (R98). -/
def faultEndStep (s : State) : State := { s with mask := Config.faultOnMask, seq := .idle }

/-- Draws a digit into `live[p]`. -/
def drawLive (p : Position) (s : State) : State := { popDigit s with live := s.live.set p (digitDraw s) }

/-- The pattern "99xxxC" (R96), in the order the rule writes it (R98). -/
def faultPattern (code : BitVec 8) (s : State) : State :=
  let s1 := { s with live := (s.live.set 5 9#4).set 4 9#4 }
  let s2 := drawLive 1 (drawLive 2 (drawLive 3 s1))
  { s2 with live := s2.live.set 0 (toDigit code.toNat) }

/-- FAULT code, blocking (R98): its first STEP. -/
def execFault (code : BitVec 8) (blocking : Bool) (s : State) : Result :=
  if isFaultCode code then
    let s1 := faultPattern code s
    if blocking then .next { s1 with halted := true, seq := .halted (.mark .on 1) }
    else .next (s1.goTo (encode (.fault code blocking)) (.fault (.mark .on 1)))
  else .next (illegalCommand s)

end Sys2Proof.Machine
end

