-- ==== Sys2Proof/Machine/Multiplexer.lean ====
section
/-! DEFINITION. The multiplexer and buffer family: BCD, WRLIVE, WRMASK, WRDWELL, SHOWTIME and RENDER (R87-R92), with BlankMask
(R86) and OverlayRefresh (R105). The pass itself is in Ops.lean. -/

namespace Sys2Proof.Machine

/-- The mask with bits 3 to 0 set and the two hour bits as given (R86, R104). -/
def hourMask (bit5 bit4 : Bool) : Mask := BitVec.ofBool bit5 ++ BitVec.ofBool bit4 ++ 0b1111#4

/-- `BlankMask(h)`, the zero-blanking mask of an hour (R86). -/
def blankMask (h : Nat) : Mask := hourMask (h / 10 != 0) (h / 10 != 0 || h % 10 != 0)

/-- The six digits of three two-digit values, position 0 first: `lo` at 0 and 1, `mid` at 2 and 3, `hi` at 4 and 5. -/
def frameOf (lo mid hi : Nat) : Frame := #v[units lo, tens lo, units mid, tens mid, units hi, tens hi]

/-- `OverlayRefresh()` (R105). -/
def overlayRefresh (s : State) : State :=
  match s.ui with
  | .idle => s
  | .editMinutes => { s with ovl := timeOverlay s.pend, mask := 0b111100#6 }
  | .editHours => { s with ovl := timeOverlay s.pend, mask := 0b111100#6 }
  | .editYear => { s with ovl := dateOverlay s.pend, mask := allOn }
  | .editMonth => { s with ovl := dateOverlay s.pend, mask := allOn }
  | .editDay => { s with ovl := dateOverlay s.pend, mask := allOn }
  | .showingDate => { s with mask := allOn }
where
  /-- HH MM, the seconds positions BLANK. -/
  timeOverlay (p : Pending) : Frame :=
    ((frameOf 0 p.minute.toNat p.hour.toNat).set 0 blankDigit).set 1 blankDigit
  /-- YY MM DD. -/
  dateOverlay (p : Pending) : Frame := frameOf p.day.toNat p.month.toNat p.year.toNat

/-! ## Meanings -/

/-- BCD digit (R87): it reports the code in `res` and drives no line. -/
def execBcd (digit : BitVec 4) (s : State) : Result :=
  if isDigitValue digit then .next { s with res := (bcdCode digit).setWidth 16, seq := .idle }
  else .next (illegalCommand s)

/-- WRLIVE pos, digit (R88). -/
def execWrlive (pos : BitVec 8) (digit : BitVec 4) (s : State) : Result :=
  match position? pos with
  | some p =>
    if isDigitValue digit then .next { s with live := s.live.set p digit, seq := .idle } else .next (illegalCommand s)
  | none => .next (illegalCommand s)

/-- WRMASK m (R89). -/
def execWrmask (mask : BitVec 6) (s : State) : Result := .next { s with mask := mask, seq := .idle }

/-- WRDWELL pos, count (R90): the count is clamped to `[DWELL_MIN, DWELL_MAX]`. -/
def execWrdwell (pos : BitVec 8) (count : BitVec 16) (s : State) : Result :=
  match position? pos with
  | some p =>
    .next { s with
      dwell := s.dwell.set p (reg16 (clamp count.toNat Config.dwellMin Config.dwellMax))
      seq := .idle }
  | none => .next (illegalCommand s)

/-- SHOWTIME hour, minute, second (R91): the mask is written only in Idle. -/
def execShowtime (hour minute second : BitVec 8) (s : State) : Result :=
  if isHour hour && isMinSec minute && isMinSec second then
    .next { s with
      live := frameOf second.toNat minute.toNat hour.toNat
      sec := second
      mask := if s.ui = .idle then blankMask hour.toNat else s.mask
      seq := .idle }
  else .next (illegalCommand s)

/-- One STEP of RENDER's pass (R83, R92). -/
def renderStep (w : Word) (src : FrameSrc) (k : PassPos) (s : State) : State :=
  let s1 := passStep src k s
  match passNext k s1 with
  | some k' => s1.goTo w (.render src k')
  | none => s1.finish

/-- RENDER (R92). In Idle its first STEP is the first SEL_BCD of a pass over `live`, and with no position lit it takes no
STEP; otherwise its first STEP is REFRESH, and a pass over `ovl` follows. -/
def execRender (s : State) : Result :=
  if s.ui = .idle then
    match passStart s.mask with
    | some k => .next (renderStep (encode .render) .live k s)
    | none => .next s.finish
  else
    let s1 := overlayRefresh s
    match passStart s1.mask with
    | some k => .next (s1.goTo (encode .render) (.render .ovl k))
    | none => .next s1.finish

end Sys2Proof.Machine
end

