-- ==== Sys2Proof/Machine/SetMode.lean ====
section
/-! DEFINITION. The set-mode and date-mode machines: BTNMODE (R101) with Commit (R102), and BTNADJ (R103) with MonthLen (R99)
and LiveMask (R104). Each command is one STEP (R100). -/

namespace Sys2Proof.Machine

/-- `MonthLen(m)` (R99); February has 29 days unconditionally. -/
def monthLen (m : Nat) : Nat := [31, 29, 31, 30, 31, 30, 31, 31, 30, 31, 30, 31].getD (m - 1) 31

/-- `LiveMask()` (R104). -/
def liveMask (s : State) : Mask := hourMask (s.live[5] != 0#4) (s.live[5] != 0#4 || s.live[4] != 0#4)

/-- The draft loaded from a clock answer (R101). -/
def pendOf (t : Config.ClockAnswer) : Pending where
  year := BitVec.ofNat 7 (t.year % 100)
  month := BitVec.ofNat 4 t.month
  day := BitVec.ofNat 5 t.day
  hour := BitVec.ofNat 5 t.hour
  minute := BitVec.ofNat 6 t.minute

/-- The request Commit sends: the draft with second 0 (R102). -/
def adjustOf (p : Pending) : ClockAdjust where
  year := p.year
  month := p.month
  day := p.day
  hour := p.hour
  minute := p.minute
  second := 0#6

/-- `Commit()` (R102). -/
def commit (s : State) : State :=
  { s with log := s.log ++ [adjustOf s.pend], sec := 60#8, mask := allOn, ui := .idle }

/-- The mode button's transition (R101). -/
def modeStep (s : State) : State :=
  match s.ui with
  | .idle => { popClock s with pend := pendOf (clockDraw s), ui := .editMinutes }
  | .editMinutes => { s with ui := .editHours }
  | .editHours => { s with ui := .editYear }
  | .editYear => { s with ui := .editMonth }
  | .editMonth => { s with ui := .editDay }
  | .editDay => commit s
  | .showingDate => s

/-- The frame "YY MM DD" of a clock answer (R103). -/
def dateFrame (t : Config.ClockAnswer) : Frame := frameOf t.day t.month (t.year % 100)

/-- The adjust button's edit of the minute (R103). -/
def minuteUp (p : Pending) : Pending := { p with minute := BitVec.ofNat 6 ((p.minute.toNat + 1) % 60) }

/-- The adjust button's edit of the hour (R103). -/
def hourUp (p : Pending) : Pending := { p with hour := BitVec.ofNat 5 ((p.hour.toNat + 1) % 24) }

/-- The adjust button's edit of the year (R103). -/
def yearUp (p : Pending) : Pending := { p with year := BitVec.ofNat 7 ((p.year.toNat + 1) % 100) }

/-- The adjust button's edit of the month (R103). -/
def monthUp (p : Pending) : Pending :=
  { p with month := if 12 ≤ p.month.toNat then 1#4 else BitVec.ofNat 4 (p.month.toNat + 1) }

/-- The adjust button's edit of the day (R103); a day beyond the month length goes to 1. -/
def dayUp (p : Pending) : Pending :=
  { p with day := if monthLen p.month.toNat ≤ p.day.toNat then 1#5 else BitVec.ofNat 5 (p.day.toNat + 1) }

/-- The adjust button's transition (R103). -/
def adjustStep (s : State) : State :=
  match s.ui with
  | .idle => { popClock s with ovl := dateFrame (clockDraw s), mask := allOn, ui := .showingDate }
  | .editMinutes => { s with pend := minuteUp s.pend }
  | .editHours => { s with pend := hourUp s.pend }
  | .editYear => { s with pend := yearUp s.pend }
  | .editMonth => { s with pend := monthUp s.pend }
  | .editDay => { s with pend := dayUp s.pend }
  | .showingDate => { s with mask := liveMask s, ui := .idle }

/-- BTNMODE (R101). -/
def execBtnmode (s : State) : Result := .next (modeStep s).finish

/-- BTNADJ (R103). -/
def execBtnadj (s : State) : Result := .next (adjustStep s).finish

end Sys2Proof.Machine
end

