-- ==== Sys2Proof/Machine/Status.lean ====
section
/-! DEFINITION. The register read: RegRead (R108) over the index map (R40), and RDREG (R109). -/

namespace Sys2Proof.Machine

/-- `RegRead(x)`, zero-extended to 16 bits; a reserved index has no value (R108). -/
def regRead (x : BitVec 8) (s : State) : Option (BitVec 16) :=
  match x.toNat with
  | 0x00 => some (statusWord s)
  | 0x01 => some s.pwmOn
  | 0x02 => some s.pwmTop
  | 0x03 => some (s.target.setWidth 16)
  | 0x04 => some s.thr
  | 0x05 => some (BitVec.ofNat 16 (smooth s))
  | 0x06 => some (s.mask.setWidth 16)
  | 0x07 => some (s.sec.setWidth 16)
  | 0x08 => some (s.anode.setWidth 16)
  | 0x09 => some (s.bcd.setWidth 16)
  | 0x0A => some (s.acc.extractLsb' 0 16)
  | 0x0B => some (s.acc.extractLsb' 16 16)
  | 0x10 => some (s.live[0].setWidth 16)
  | 0x11 => some (s.live[1].setWidth 16)
  | 0x12 => some (s.live[2].setWidth 16)
  | 0x13 => some (s.live[3].setWidth 16)
  | 0x14 => some (s.live[4].setWidth 16)
  | 0x15 => some (s.live[5].setWidth 16)
  | 0x18 => some (s.ovl[0].setWidth 16)
  | 0x19 => some (s.ovl[1].setWidth 16)
  | 0x1A => some (s.ovl[2].setWidth 16)
  | 0x1B => some (s.ovl[3].setWidth 16)
  | 0x1C => some (s.ovl[4].setWidth 16)
  | 0x1D => some (s.ovl[5].setWidth 16)
  | 0x20 => some s.dwell[0]
  | 0x21 => some s.dwell[1]
  | 0x22 => some s.dwell[2]
  | 0x23 => some s.dwell[3]
  | 0x24 => some s.dwell[4]
  | 0x25 => some s.dwell[5]
  | 0x28 => some (s.pend.minute.setWidth 16)
  | 0x29 => some (s.pend.hour.setWidth 16)
  | 0x2A => some (s.pend.year.setWidth 16)
  | 0x2B => some (s.pend.month.setWidth 16)
  | 0x2C => some (s.pend.day.setWidth 16)
  | _ => none

/-- RDREG index (R109). -/
def execRdreg (index : BitVec 8) (s : State) : Result :=
  match regRead index s with
  | some v => .next { s with res := v, seq := .idle }
  | none => .next (illegalCommand s)

end Sys2Proof.Machine
end

