-- ==== Sys2Proof/Machine/Dispatch.lean ====
section
/-! DEFINITION. One arm per command: `exec` performs the decode step's operand checks and the command's first STEP (R64, R21);
later STEPs are Machine/Sequencer.lean's. -/

namespace Sys2Proof.Machine

def exec (i : Instr) (s : State) : Host.Outcome State Fault Refusal :=
  match i with
  | .hven => Sys2Proof.Machine.execHven s
  | .hvdis => Sys2Proof.Machine.execHvdis s
  | .seton value => Sys2Proof.Machine.execSeton value s
  | .settop value => Sys2Proof.Machine.execSettop value s
  | .settgt volts => Sys2Proof.Machine.execSettgt volts s
  | .thresh volts => Sys2Proof.Machine.execThresh volts s
  | .sample => Sys2Proof.Machine.execSample s
  | .regstep => Sys2Proof.Machine.execRegstep s
  | .cal => Sys2Proof.Machine.execCal s
  | .bcd digit => Sys2Proof.Machine.execBcd digit s
  | .wrlive pos digit => Sys2Proof.Machine.execWrlive pos digit s
  | .wrmask mask => Sys2Proof.Machine.execWrmask mask s
  | .wrdwell pos count => Sys2Proof.Machine.execWrdwell pos count s
  | .showtime hour minute second => Sys2Proof.Machine.execShowtime hour minute second s
  | .render => Sys2Proof.Machine.execRender s
  | .depoison rep => Sys2Proof.Machine.execDepoison rep s
  | .fault code blocking => Sys2Proof.Machine.execFault code blocking s
  | .btnmode => Sys2Proof.Machine.execBtnmode s
  | .btnadj => Sys2Proof.Machine.execBtnadj s
  | .rdreg index => Sys2Proof.Machine.execRdreg index s

end Sys2Proof.Machine
end

