-- ==== Sys2Proof/Machine/Sequencer.lean ====
section
/-! DEFINITION. What one step of the machine does: an input, the tick handler, or one STEP of the sequencer (R8, R21, R64,
R114, R115, R127, R130). -/

namespace Sys2Proof.Machine

/-- The sequencer's next move inside a command (R21). At `k = 0` it is the decode step with the command's first STEP: a
word that spells no command raises IllegalCommand (R63, R64, R110). -/
def busyStep (w : Word) (k : Pos) (s : State) : Result :=
  match k with
  | .start =>
    match decode w with
    | some i => exec i s
    | none => .next (illegalCommand s)
  | .render src k => .next (renderStep w src k s)
  | .depoison c k => .next (depoisonStep w c k s)
  | .fault k => .next (faultStep (some w) k s)
  | .faultEnd => .next (faultEndStep s)
  | .cal c k => .next (calStep w c k s)

/-- "Acceptance moves `seq` to `Busy(cmd, 0)`" (R21); with no word offered, Idle waits (R126, R127). -/
def acceptStep (s : State) : State :=
  match s.cmdIn with
  | some w => { s with cmdIn := none, seq := .busy w .start }
  | none => s

/-- One move of the sequencer. -/
def seqStep (s : State) : Result :=
  match s.seq with
  | .idle => .next (acceptStep s)
  | .busy w k => busyStep w k s
  | .halted k => .next (faultStep none k s)

/-- One STEP of the core: a pending tick is taken at the next STEP boundary (R114), else the sequencer moves. -/
def coreStep (s : State) : Result := if s.tickPending = 0 then seqStep s else .next (tickHandler s)

/-- The input to come, if any: the first one listed, or a free one (R126). -/
def Env.upcoming (e : Env) : Option Config.Input :=
  match e.inputs with
  | i :: _ => some i
  | [] =>
    match e.onward with
    | .quiet => none
    | .free => some (Config.freeInput e.arrived)

/-- The environment without the input that has come. -/
def Env.advance (e : Env) : Env :=
  match e.inputs with
  | _ :: rest => { e with inputs := rest }
  | [] => { e with arrived := e.arrived + 1 }

/-- Takes the next input away. -/
def State.dropInput (s : State) : State := s.withEnv s.env.advance

/-- READY with the CMD port free: "issue a word only when READY = 1" (R126). -/
def hostMayMove (s : State) : Bool := decide (s.seq = .idle) && s.cmdIn.isNone

/-- One step of the machine: the next input takes effect, or the core performs a STEP. The host offers a word, and starts
the 1 Hz signal, only while READY = 1; until then its move waits and the core goes on (R126, R130). -/
def machineStep (s : State) : Result :=
  match s.env.upcoming with
  | none => coreStep s
  | some .run => coreStep s.dropInput
  | some .tick => .next (edgeArrives s.dropInput)
  | some .startTick => if hostMayMove s then .next (tickStarts s.dropInput) else coreStep s
  | some (.offer w) => if hostMayMove s then .next { s.dropInput with cmdIn := some w } else coreStep s
  | some .reset => .next (applyReset s.dropInput)

/-- The sequencer holds `w`, accepted and not yet decoded, and the next step is the core's: so the very next step decodes
and runs `w` (log entry 6). -/
def placeWord (w : Word) (s : State) : State :=
  { s with seq := .busy w .start, tickPending := 0, env := { s.env with inputs := .run :: s.env.inputs } }

end Sys2Proof.Machine
end

