-- ==== Sys2Proof/Machine/Assembler.lean ====
section
/-! DEFINITION. The assembler of R66 and the pseudo-instructions of R67. No step of the machine uses it: it says which word
a line of the spec's syntax stands for. What R66 leaves open of the syntax (letter case, blanks, `0b`) is log entry 10. -/

namespace Sys2Proof.Machine

/-- An operand in its field: one that does not fit is rejected, one that fits and is out of range passes (R66). -/
def fit (width n : Nat) : Option (BitVec width) := if n < 2 ^ width then some (BitVec.ofNat width n) else none

/-- The command of a line with numeric operands, the pseudo-instructions of R67 last. -/
def assembleLine (name : String) (ops : List Nat) : Option Instr :=
  match ops with
  | [] =>
    if name = "HVEN" then some .hven
    else if name = "HVDIS" then some .hvdis
    else if name = "SAMPLE" then some .sample
    else if name = "REGSTEP" then some .regstep
    else if name = "CAL" then some .cal
    else if name = "RENDER" then some .render
    else if name = "BTNMODE" then some .btnmode
    else if name = "BTNADJ" then some .btnadj
    else if name = "SHOWALL" then some (.wrmask allOn)
    else if name = "HIDEALL" then some (.wrmask 0#6)
    else if name = "STATUS" then some (.rdreg 0x00#8)
    else none
  | [x] =>
    if name = "SETON" then (fit 16 x).map .seton
    else if name = "SETTOP" then (fit 16 x).map .settop
    else if name = "SETTGT" then (fit 8 x).map .settgt
    else if name = "THRESH" then (fit 16 x).map .thresh
    else if name = "DEPOISON" then (fit 16 x).map .depoison
    else if name = "BCD" then (fit 4 x).map .bcd
    else if name = "WRMASK" then (fit 6 x).map .wrmask
    else if name = "RDREG" then (fit 8 x).map .rdreg
    else if name = "BLANK" then (fit 8 x).map fun p => .wrlive p blankDigit
    else if name = "SETFREQ" then (fit 16 x).map .settop
    else none
  | [x, y] =>
    if name = "WRLIVE" then (fit 8 x).bind fun p => (fit 4 y).map fun d => .wrlive p d
    else if name = "WRDWELL" then (fit 8 x).bind fun p => (fit 16 y).map fun c => .wrdwell p c
    else if name = "FAULT" then (fit 8 x).bind fun c => (fit 1 y).map fun b => .fault c (b == 1#1)
    else none
  | [x, y, z] =>
    if name = "SHOWTIME" then
      (fit 8 x).bind fun h => (fit 8 y).bind fun m => (fit 8 z).map fun s => .showtime h m s
    else none
  | _ => none

/-! ## Reading a line of text -/

/-- The value of a digit character in a base up to 16. -/
def digitOf (base : Nat) (c : Char) : Option Nat :=
  let v :=
    if '0' ≤ c ∧ c ≤ '9' then c.toNat - '0'.toNat
    else if 'A' ≤ c ∧ c ≤ 'F' then c.toNat - 'A'.toNat + 10
    else if 'a' ≤ c ∧ c ≤ 'f' then c.toNat - 'a'.toNat + 10
    else base
  if v < base then some v else none

/-- The number a digit string spells, from the value so far on. -/
def readDigits (base : Nat) : List Char → Nat → Option Nat
  | [], n => some n
  | c :: cs, n => (digitOf base c).bind fun v => readDigits base cs (n * base + v)

/-- A number: decimal, hexadecimal with `0x`, or binary with `0b` (R66). -/
def readNumber : List Char → Option Nat
  | '0' :: 'x' :: c :: cs => readDigits 16 (c :: cs) 0
  | '0' :: 'b' :: c :: cs => readDigits 2 (c :: cs) 0
  | c :: cs => readDigits 10 (c :: cs) 0
  | [] => none

/-- A digit operand: a number, or the word BLANK, 15 (R66). -/
def readDigitOperand (cs : List Char) : Option Nat := if cs = "BLANK".toList then some 15 else readNumber cs

/-- Whether a character is a blank. -/
def isBlank (c : Char) : Bool := c == ' ' || c == '\t'

/-- A string without its leading and trailing blanks. -/
def trim (cs : List Char) : List Char := ((cs.dropWhile isBlank).reverse.dropWhile isBlank).reverse

/-- The pieces of a string between commas. -/
def splitCommas : List Char → List (List Char)
  | [] => [[]]
  | c :: cs =>
    if c = ',' then [] :: splitCommas cs
    else match splitCommas cs with
      | piece :: rest => (c :: piece) :: rest
      | [] => [[c]]

/-- Reads every piece as an operand, or none at all; the last one is a digit operand where `digitLast` says so. -/
def readAll (digitLast : Bool) : List (List Char) → Option (List Nat)
  | [] => some []
  | [p] => (if digitLast then readDigitOperand (trim p) else readNumber (trim p)).map fun v => [v]
  | p :: ps => (readNumber (trim p)).bind fun v => (readAll digitLast ps).map fun vs => v :: vs

/-- The word of one line: a mnemonic, then its operands separated by commas; `;` starts a comment (R66). The digit of BCD
and of WRLIVE may be the word BLANK. -/
def assemble (line : List Char) : Option Word :=
  let text := trim (line.takeWhile (· ≠ ';'))
  let name := String.ofList (text.takeWhile fun c => !isBlank c)
  let rest := trim (text.dropWhile fun c => !isBlank c)
  let digitLast := decide (name = "BCD") || decide (name = "WRLIVE")
  let ops := if rest = [] then some [] else readAll digitLast (splitCommas rest)
  ops.bind fun vs => (assembleLine name vs).map encode

end Sys2Proof.Machine
end

