-- ==== Sys2Proof/Machine/Ports.lean ====
section
/-! DEFINITION. The core's output ports as functions of its state (R124), and the steady PWM waveform (R68). The timer
with its double buffers stands in Machine/Pwm.lean. -/

namespace Sys2Proof.Machine

/-- READY: `seq = Idle` (R124). -/
def ready (s : State) : Bool := decide (s.seq = .idle)

/-- RES (R20, R124). -/
def resPort (s : State) : BitVec 16 := s.res

/-- STAT, driven continuously: the same bits RDREG 0x00 reads (R41, R124). -/
def statPort (s : State) : BitVec 16 := statusWord s

/-- ANODE (R33, R124). -/
def anodePort (s : State) : Mask := s.anode

/-- BCD (R34, R124). -/
def bcdPort (s : State) : BitVec 4 := s.bcd

/-- CLK_ADJ: the requests sent to the clock collaborator so far (R39, R124). -/
def clkAdjPort (s : State) : List ClockAdjust := s.log

/-- The cathode a 74141-class decoder lights for a code, if any (R82). -/
def litCathode (code : BitVec 4) : Option Nat := if code.toNat ≤ 9 then some code.toNat else none

/-- The length of a PWM period, in timer clocks (R68). -/
def pwmPeriod (s : State) : Nat := s.pwmTop.toNat + 1

/-- The PWM port under steady `gate`, `on` and `top`, when the timer's count is `count`, 0 to `top`: the switch conducts for
the first `on` clocks of a period while the gate is open (R68, R123; log entry 12). -/
def pwmPort (s : State) (count : Nat) : Bool := s.gate && decide (count < s.pwmOn.toNat)

end Sys2Proof.Machine
end

