-- ==== Sys2Proof/Machine/Pwm.lean ====
section
/-! DEFINITION. The PWM timer (R68, R123), as an observation beside the machine. "The model does not step the PWM timer. The
waveform is an observation of (`gate`, `on`, `top`), and no other rule reads it" (R68): no step of the core advances it
(log entry 12). -/

namespace Sys2Proof.Machine

/-- The timer: its count, and the gate, pulse width and period of the current period. -/
structure PwmTimer where
  count : Nat
  gate : Bool
  pulse : BitVec 16
  top : BitVec 16
  deriving DecidableEq, Repr

/-- The timer after a STEP of the core that leaves `s`: "a change of `gate` from 1 to 0 ends any pulse at once", and a gate
that opens again does not bring it back (R68). `gate` holds one value between two STEPs, so no edge goes unseen. DESIGN
CHOICE (log entry 20): RESET is seen as any other step, so it closes the gate and leaves the count and the buffered `on` and
`top` running until their period ends; the spec does not say what RESET does to them. -/
def PwmTimer.see (s : State) (t : PwmTimer) : PwmTimer := { t with gate := t.gate && s.gate }

/-- One timer clock under the core's state `s`: at the end of a period the next one takes up `on`, `top` and an open gate
(R68, R123). -/
def PwmTimer.clock (s : State) (t : PwmTimer) : PwmTimer :=
  if t.top.toNat ≤ t.count then { count := 0, gate := s.gate, pulse := s.pwmOn, top := s.pwmTop }
  else { t with count := t.count + 1 }

/-- The PWM port under the core's state `s`: on for the first clocks of a period whose gate is open, and "while `gate = 0`,
the switch is held off" (R68), whatever the timer holds. -/
def PwmTimer.output (s : State) (t : PwmTimer) : Bool := s.gate && t.gate && decide (t.count < t.pulse.toNat)

/-- The core and its timer. DESIGN CHOICE (log entry 20): every timer is a start, since the spec gives it no value at
power-on; one whose gate is open beside a core whose gate is closed acts as one whose gate is closed (`observe`). -/
structure Observed where
  core : State
  timer : PwmTimer
  deriving DecidableEq, Repr

/-- What may happen next to the two: a step of the machine, or a timer clock. Nothing fixes their order. -/
inductive Moment where
  | step
  | clock
  deriving DecidableEq, Repr

/-- The PWM port of the two. -/
def Observed.output (o : Observed) : Bool := o.timer.output o.core

/-- The core and its timer after a moment. The timer sees the gate the core has before the moment too, so that a start whose
core has `gate = 0` takes up an opening gate at its next period and no earlier (R68). -/
def observe (m : Moment) (o : Observed) : Observed :=
  let timer := o.timer.see o.core
  match m with
  | .step =>
    match step o.core with
    | .next t => ⟨t, timer.see t⟩
    | .fault _ => ⟨o.core, timer⟩
    | .refused _ => ⟨o.core, timer⟩
  | .clock => ⟨o.core, timer.clock o.core⟩

end Sys2Proof.Machine
end

