-- ==== Sys2Proof/Machine/HostContract.lean ====
section
/-! DEFINITION. The contracts with the host (R45, R112, R126, R128): the persisted settings layout, the load rule, the boot
order's moves, and the host's duties. The core never reaches the settings store (R43); no meaning calls anything here. -/

namespace Sys2Proof.Machine

/-! ## The persisted settings layout (R45) -/

/-- What the settings store holds (R45). -/
structure Settings where
  pulse : BitVec 16
  target : BitVec 8
  period : BitVec 16
  calNeeded : BitVec 8
  firstRun : BitVec 8
  deriving DecidableEq, Repr

/-- The low byte of a 16-bit value. -/
def lowByte (v : BitVec 16) : BitVec 8 := v.extractLsb' 0 8

/-- The high byte of a 16-bit value. -/
def highByte (v : BitVec 16) : BitVec 8 := v.extractLsb' 8 8

/-- The byte at each offset 0 to 6 from the store base (R45); each 16-bit value low byte first. -/
def Settings.byteAt (p : Settings) : Nat → Option (BitVec 8)
  | 0 => some (lowByte p.pulse)
  | 1 => some (highByte p.pulse)
  | 2 => some p.target
  | 3 => some (lowByte p.period)
  | 4 => some (highByte p.period)
  | 5 => some p.calNeeded
  | 6 => some p.firstRun
  | _ => none

/-- The store's cells from the base address on (R45, STORE_BASE). -/
def Settings.cells (h : Config.HostParams) (p : Settings) : List Host.Cell :=
  [(h.storeBase, lowByte p.pulse), (h.storeBase + 1, highByte p.pulse), (h.storeBase + 2, p.target),
   (h.storeBase + 3, lowByte p.period), (h.storeBase + 4, highByte p.period), (h.storeBase + 5, p.calNeeded),
   (h.storeBase + 6, p.firstRun)]

/-- The settings seven bytes hold, in the order of the offsets (R45). -/
def Settings.ofBytes (b0 b1 b2 b3 b4 b5 b6 : BitVec 8) : Settings where
  pulse := b1 ++ b0
  target := b2
  period := b4 ++ b3
  calNeeded := b5
  firstRun := b6

/-- Whether the calibration-needed flag is set (R128 step 8, FLAG_TRUE). -/
def Settings.wantsCal (h : Config.HostParams) (p : Settings) : Bool := p.calNeeded == h.flagTrue

/-! ## The load rule (R128 step 2) -/

/-- One field: a slot that is absent or out of `[lo, hi]` falls back to its default, silently (R128). -/
def loadField (slot : Option Nat) (lo hi dflt : Nat) : Nat :=
  match slot with
  | some v => if lo ≤ v ∧ v ≤ hi then v else dflt
  | none => dflt

/-- The pulse width the host loads (R128). -/
def loadPulse (c : Config.Params) (slot : Option (BitVec 16)) : Nat :=
  loadField (slot.map BitVec.toNat) c.pulseMin c.pulseMax c.pulseDefault

/-- The period the host loads (R128). -/
def loadPeriod (c : Config.Params) (slot : Option (BitVec 16)) : Nat :=
  loadField (slot.map BitVec.toNat) c.topMin c.topMax c.topDefault

/-- The target the host loads (R128, TARGET_MIN_V, TARGET_MAX_V). -/
def loadTarget (c : Config.Params) (slot : Option (BitVec 8)) : Nat :=
  loadField (slot.map BitVec.toNat) Config.targetMinV Config.targetMaxV c.targetDefault

/-! ## The boot order (R128) -/

/-- Step 2: `SETTGT target`, `SETON pw`, `SETTOP period`, in that order. -/
def loadCommands (c : Config.Params) (pulse period : Option (BitVec 16)) (target : Option (BitVec 8)) : List Instr :=
  [.settgt (BitVec.ofNat 8 (loadTarget c target)), .seton (BitVec.ofNat 16 (loadPulse c pulse)),
   .settop (BitVec.ofNat 16 (loadPeriod c period))]

/-- Step 4 when the clock chip is absent: `FAULT 0, 1`, and the boot ends there (R112). -/
def clockAbsentCommand : Instr := .fault (BitVec.ofNat 8 Config.faultCodeHwAbsent) true

/-- Step 4 when the clock reports battery loss: `FAULT FAULT_CODE_POWERLOSS, 0` (R112). -/
def powerLossCommand (h : Config.HostParams) : Instr := .fault (BitVec.ofNat 8 h.powerLossCode) false

/-- `SHOWTIME h, m, s` of a clock read: "send the clock's fields unchanged" (R126). -/
def showtimeOf (read : Config.ClockAnswer) : Instr :=
  .showtime (BitVec.ofNat 8 read.hour) (BitVec.ofNat 8 read.minute) (BitVec.ofNat 8 read.second)

/-- Steps 6 and 7: `SHOWTIME h, m, s` of a clock read, then `HVEN`. -/
def showAndEnable (read : Config.ClockAnswer) : List Instr := [showtimeOf read, .hven]

/-- Step 8: if the calibration-needed flag is set, `CAL`, and then `on` and `top` are read through RDREG. -/
def calCommands (wanted : Bool) : List Instr := if wanted then [.cal, .rdreg 0x01#8, .rdreg 0x02#8] else []

/-- Step 3, the operator's trim: SETTOP words alone (R128). -/
def trimCommands (periods : List (BitVec 16)) : List Instr := periods.map .settop

/-- What the clock check of step 4 finds (R112, R128). -/
inductive ClockCheck where
  | present
  | absent
  | powerLost
  deriving DecidableEq, Repr

/-- What the host then tells the clock itself: after a power loss, FALLBACK_DATETIME (R128 step 4). -/
def checkAdjust (h : Config.HostParams) : ClockCheck → Option Config.ClockAnswer
  | .present => none
  | .absent => none
  | .powerLost => some h.fallback

/-- The host offers these commands, one after the other. -/
def offers (cs : List Instr) : List Config.Input := cs.map fun i => .offer (encode i)

/-- Steps 5 to 8: the 1 Hz signal is started after the fault checks, then the first display, the enable, and CAL if wanted. -/
def afterChecks (read : Config.ClockAnswer) (cal : Bool) : List Config.Input :=
  .startTick :: offers (showAndEnable read ++ calCommands cal)

/-- Every move of the host in a boot, in the order of R128 (steps 2 to 8): nothing follows the blocking report of an absent
clock, and no edge arrives before step 5 (R114). -/
def bootOrder (c : Config.Params) (h : Config.HostParams) (pulse period : Option (BitVec 16))
    (target : Option (BitVec 8)) (trim : List (BitVec 16)) (check : ClockCheck) (read : Config.ClockAnswer)
    (cal : Bool) : List Config.Input :=
  offers (loadCommands c pulse period target ++ trimCommands trim) ++
    match check with
    | .present => afterChecks read cal
    | .absent => offers [clockAbsentCommand]
    | .powerLost => offers [powerLossCommand h] ++ afterChecks read cal

/-- The host makes these moves, each when it may, and nothing else comes (R126). -/
def hostMakes (moves : List Config.Input) (s : State) : State :=
  s.withEnv { s.env with inputs := moves, onward := .quiet }

/-! ## The host's duties (R126, I13)

The machine takes any word at READY; a claim about a host that keeps its duties takes `KeepsDuties` as its premise (log
entry 22). -/

/-- The moves of some boot: any stored settings, trim, clock check and clock read in R16's ranges, and CAL exactly when the
stored flag is set (R128). DESIGN CHOICE (log entry 23): what the host does with the first-run flag is OPEN, and a boot holds
no move for it, so a host whose FIRST_RUN_POLICY sends a word in the boot is none of these. -/
def IsBoot (h : Config.HostParams) (c : Config.Params) (moves : List Config.Input) : Prop :=
  ∃ (pulse period : Option (BitVec 16)) (target : Option (BitVec 8)) (trim : List (BitVec 16)) (check : ClockCheck)
    (read : Config.ClockAnswer) (calNeeded : BitVec 8), read.InRange ∧
    moves = bootOrder c h pulse period target trim check read (calNeeded == h.flagTrue)

/-- A word that breaks no duty of the main loop: a SHOWTIME sends the fields of some clock read, and a blocking FAULT reports
HardwareAbsent (R126). -/
def DutifulWord (w : Word) : Prop :=
  (∀ hour minute second, decode w = some (.showtime hour minute second) →
    ∃ read : Config.ClockAnswer, read.InRange ∧ showtimeOf read = .showtime hour minute second) ∧
  (∀ code, decode w = some (.fault code true) → code.toNat = Config.faultCodeHwAbsent)

/-- A move of the host with `boot` left to do: the next move of the boot, and once the boot is done a word that breaks no
duty; the signal is started in the boot and may be again (R126). -/
def DutifulMove (i : Config.Input) (boot rest : List Config.Input) : Prop :=
  boot = i :: rest ∨ (boot = [] ∧ rest = [] ∧ ∀ w, i = .offer w → DutifulWord w)

/-- What the host has left of its boot, `boot` before and `rest` after a step from `s`: a move that waits is no move, and
after RESET the host runs a boot again (R127). -/
def HostKeeps (h : Config.HostParams) (s : State) (boot rest : List Config.Input) : Prop :=
  match s.env.upcoming with
  | none => rest = boot
  | some .run => rest = boot
  | some .tick => rest = boot
  | some .startTick => if hostMayMove s then DutifulMove .startTick boot rest else rest = boot
  | some (.offer w) => if hostMayMove s then DutifulMove (.offer w) boot rest else rest = boot
  | some .reset => IsBoot h s.cfg rest

/-- In the first `n` steps from `s`, with `boot` left to do, the host keeps its duties (R126). -/
def KeepsDuties (h : Config.HostParams) : Nat → List Config.Input → State → Prop
  | 0, _, _ => True
  | n + 1, boot, s => ∃ rest, HostKeeps h s boot rest ∧ ∀ t, step s = .next t → KeepsDuties h n rest t

/-- A run, finite or infinite, from a reset state in which the host keeps its duties throughout: the boot order first, then
the main loop (R126, R128). -/
def DutifulRun (h : Config.HostParams) (s : State) : Prop :=
  ∃ boot, IsBoot h s.cfg boot ∧ ∀ n, KeepsDuties h n boot s

/-- The commands R126 lists for the main loop and for persistence, with their conditions: REGSTEP when FEEDBACK_ENABLED
(D42), SHOWTIME when `reread = 1` and at start, RENDER, the two buttons, DEPOISON, and RDREG of ON, TOP and TARGET. Their
order and rate are the host's liberty; that it sends no other is no duty of R126, so `KeepsDuties` does not ask it. -/
def mainLoopSends (h : Config.HostParams) (atStart : Bool) (s : State) : Instr → Bool
  | .regstep => h.feedbackEnabled
  | .showtime _ _ _ => reread s || atStart
  | .render => true
  | .btnmode => true
  | .btnadj => true
  | .depoison _ => true
  | .rdreg x => x == 0x01#8 || x == 0x02#8 || x == 0x03#8
  | .hven => false
  | .hvdis => false
  | .seton _ => false
  | .settop _ => false
  | .settgt _ => false
  | .thresh _ => false
  | .sample => false
  | .cal => false
  | .bcd _ => false
  | .wrlive _ _ => false
  | .wrmask _ => false
  | .wrdwell _ _ => false
  | .fault _ _ => false

/-- What the host persists at will: `on`, `top` and `target` as RDREG reads them, with the flag bytes as they were
(R126). -/
def persist (s : State) (old : Settings) : Settings :=
  { old with pulse := s.pwmOn, target := s.target, period := s.pwmTop }

/-- What the host persists after CAL: `on` and `top`, with the calibration-needed flag cleared (R128 step 8, R138). -/
def persistAfterCal (h : Config.HostParams) (s : State) (old : Settings) : Settings :=
  { old with pulse := s.pwmOn, period := s.pwmTop, calNeeded := h.flagClear }

/-- The full date the host passes to the clock's `adjust` for a request of the core: it adds YEAR_BASE (R102). -/
def adjustYear (h : Config.HostParams) (a : ClockAdjust) : Nat := h.yearBase + a.year.toNat

end Sys2Proof.Machine
end

