-- ==== Sys2Proof/Safety.lean ====
section
/-! DEFINITION. What counts as a safe state, in the terms claims use: the bounds and ranges the rules state (R15, R24, R26, R27,
R29, R32, R33, R84, R107), the invariant `Inv` that gathers them, a clean run (R110), the launch state `BootClean`
(R129), and the floating gate (R131). -/

namespace Sys2Proof.Safety

open Sys2Proof.Machine

/-! ## Ranges -/

/-- The regulator's bounds (R24). -/
def PwmInRange (s : State) : Prop :=
  s.cfg.pulseMin ≤ s.pwmOn.toNat ∧ s.pwmOn.toNat ≤ s.cfg.pulseMax ∧
  s.cfg.topMin ≤ s.pwmTop.toNat ∧ s.pwmTop.toNat ≤ s.cfg.topMax ∧
  s.pwmOn.toNat + s.cfg.margin ≤ s.pwmTop.toNat

/-- Every element of a frame is a DigitValue (R15). -/
def FrameOk (f : Frame) : Prop := ∀ p : Position, isDigitValue f[p] = true

/-- Every dwell count lies in `[DWELL_MIN, DWELL_MAX]` (R32). -/
def DwellOk (d : DwellTable) : Prop :=
  ∀ p : Position, Config.dwellMin ≤ d[p].toNat ∧ d[p].toNat ≤ Config.dwellMax

/-- The draft's ranges (R36, R107). -/
def PendOk (p : Pending) : Prop :=
  p.year.toNat ≤ 99 ∧ 1 ≤ p.month.toNat ∧ p.month.toNat ≤ 12 ∧ 1 ≤ p.day.toNat ∧ p.day.toNat ≤ 31 ∧
  p.hour.toNat ≤ 23 ∧ p.minute.toNat ≤ 59

/-- The ranges of a request sent to the clock (R39). -/
def AdjustOk (a : ClockAdjust) : Prop :=
  a.year.toNat ≤ 99 ∧ 1 ≤ a.month.toNat ∧ a.month.toNat ≤ 12 ∧ 1 ≤ a.day.toNat ∧ a.day.toNat ≤ 31 ∧
  a.hour.toNat ≤ 23 ∧ a.minute.toNat ≤ 59 ∧ a.second = 0#6

/-- `acc` never exceeds `EMA_N * (2^ADC_BITS - 1)` (R27). -/
def AccOk (s : State) : Prop := s.acc.toNat ≤ Config.emaN * (2 ^ s.cfg.adcBits - 1)

/-! ## The outputs (R33, R84, R85) -/

/-- `anode` is 0 or has exactly one bit set (R33, R84). -/
def AnodeExclusive (m : Mask) : Prop := m = 0#6 ∨ ∃ p : Position, m = bitAt p

/-- The render pass in progress, if any. -/
def depoisonPass : DepoisonPos → Option PassPos
  | .burst _ _ _ => none
  | .pass _ _ _ _ k => some k
  | .restore => none

/-- The render pass in progress, if any. -/
def faultPass : FaultPos → Option PassPos
  | .mark _ _ => none
  | .pass _ _ _ k => some k

/-- The render pass in progress, if any. -/
def calPass : CalPos → Option PassPos
  | .search _ => none
  | .content _ _ => none
  | .pass _ k _ => some k

/-- The render pass the sequencer is in, if any. -/
def passOf : Seq → Option PassPos
  | .idle => none
  | .busy _ .start => none
  | .busy _ (.render _ k) => some k
  | .busy _ (.depoison _ k) => depoisonPass k
  | .busy _ (.fault k) => faultPass k
  | .busy _ .faultEnd => none
  | .busy _ (.cal _ k) => calPass k
  | .halted k => faultPass k

/-- Between the SEL_ON and the GAP of a lit position (R84). -/
def PassPhase.isLit : PassPhase → Bool
  | .selBcd => false
  | .selOn _ => false
  | .dwell _ => true
  | .gap => true

/-- The sequencer with the pass in progress at `k`, in the same repeat of the same command. -/
def withPass (q : Seq) (k : PassPos) : Seq :=
  match q with
  | .busy w (.render src _) => .busy w (.render src k)
  | .busy w (.depoison c (.pass p r d n _)) => .busy w (.depoison c (.pass p r d n k))
  | .busy w (.fault (.pass phase j n _)) => .busy w (.fault (.pass phase j n k))
  | .busy w (.cal c (.pass left _ after)) => .busy w (.cal c (.pass left k after))
  | .halted (.pass phase j n _) => .halted (.pass phase j n k)
  | q => q

/-- The frame the pass in progress reads: only RENDER reads `ovl` (R83, R92, R94, R97, R80). -/
def passSrc : Seq → FrameSrc
  | .busy _ (.render src _) => src
  | _ => .live

/-- The position whose anode the pass in progress holds up, if any. -/
def litPosition (q : Seq) : Option Position :=
  match passOf q with
  | some k => if PassPhase.isLit k.phase then some k.i else none
  | none => none

/-- The anode lines are those of the pass in progress; a lit position has the gate open; and every position a pass is at
is on in the mask (R84, R85). -/
def OutputsOk (s : State) : Prop :=
  (match litPosition s.seq with
   | some p => s.anode = bitAt p ∧ s.gate = true
   | none => s.anode = 0#6) ∧
  ∀ k, passOf s.seq = some k → s.mask.getLsbD k.i.val = true

/-! ## The sequencer -/

/-- Whether a CAL is in progress. -/
def inCal : Seq → Bool
  | .busy _ (.cal _ _) => true
  | _ => false

/-- Whether the sequencer is Halted. -/
def isHalted : Seq → Bool
  | .halted _ => true
  | _ => false

/-- The frame a running command has saved, if it saved one (R38). -/
def savedFrame : Seq → Option Frame
  | .busy _ (.depoison c _) => some c.savedLive
  | .busy _ (.cal c _) => some c.savedLive
  | _ => none

/-- The digit of the depoison burst the sequencer is about to begin, if it is about to begin one (R94). -/
def burstDigit : Seq → Option Nat
  | .busy _ (.depoison _ (.burst _ _ d)) => some d
  | _ => none

/-! ## The invariant -/

/-- What every step keeps: the constraints of R10, the ranges of R15, R24, R27, R32, R36 and R39, `thr` as R26 writes it,
`halted` and `hvlife` as R22 and R29 tie them to the sequencer, and the outputs (R84, R85). -/
structure Inv (s : State) : Prop where
  cfg : s.cfg.Valid
  pwm : PwmInRange s
  thr : s.thr.toNat = thresholdFor s.cfg s.target.toNat
  acc : AccOk s
  seed : s.seeded = false → s.acc = 0#32
  live : FrameOk s.live
  ovl : FrameOk s.ovl
  saved : ∀ f, savedFrame s.seq = some f → FrameOk f
  burst : ∀ d, burstDigit s.seq = some d → d ≤ 9
  bcd : isDigitValue s.bcd = true
  dwell : DwellOk s.dwell
  pend : PendOk s.pend
  log : ∀ a ∈ s.log, AdjustOk a
  halted : s.halted = isHalted s.seq
  hvlife : s.hvlife = .calibrating ↔ inCal s.seq = true
  outputs : OutputsOk s

/-! ## Runs and launch states -/

/-- "A claim about a clean run takes `err = 0` at the end as a premise" (R110). -/
def CleanRun (s : State) : Prop := s.err = false

/-- The inputs that are moves of the host (R126, R128). -/
def isHostMove : Config.Input → Bool
  | .offer _ => true
  | .startTick => true
  | .run => false
  | .tick => false
  | .reset => false

/-- The host's next move, an offer or the start of the 1 Hz signal, waits for READY and a free port (R126, R130). -/
def HostWaits (s : State) : Prop := hostMayMove s = false ∧ s.env.upcoming.any isHostMove = true

/-- Nothing is to come, or the host's next move waits, and no edge is pending: the next STEP is the sequencer's. -/
def Alone (s : State) : Prop := (s.env.upcoming = none ∨ HostWaits s) ∧ s.tickPending = 0

/-- The next input is not RESET. -/
def NoReset (s : State) : Prop := s.env.upcoming ≠ some .reset

/-- The clean launch state for the main loop, `BootClean` (R129). The target's bounds are those of the load (R128). -/
def BootClean (s : State) : Prop :=
  s.seq = .idle ∧ s.err = false ∧ s.halted = false ∧ s.hvlife = .steady ∧ s.ui = .idle ∧
  PwmInRange s ∧
  Config.targetMinV ≤ s.target.toNat ∧ s.target.toNat ≤ Config.targetMaxV ∧
  (s.sec.toNat < 60 ∨ reread s = true) ∧
  (∃ h m : Nat, h ≤ 23 ∧ m ≤ 59 ∧
    s.live[2] = units m ∧ s.live[3] = tens m ∧ s.live[4] = units h ∧ s.live[5] = tens h) ∧
  (∃ n : Nat, n ≤ 59 ∧ s.live[0] = units n ∧ s.live[1] = tens n)

/-- The length in STEPs of a pass over all six positions: `dwell[i] + 3` for each lit position (R83). -/
def passLength (s : State) : Nat :=
  ((List.finRange 6).map fun p => if s.mask.getLsbD p.val then s.dwell[p].toNat + 3 else 0).sum

/-- CAL is in pass 2: its next STEP, or the one after the display in progress, is the sampling STEP of pass 2 (R80). -/
def inPass2 (q : Seq) (c : CalCtx) : Prop :=
  ∃ w j, q = .busy w (.cal c (.search (.sample2 j))) ∨ (∃ n, q = .busy w (.cal c (.content n (.sample2 j)))) ∨
    ∃ n k, q = .busy w (.cal c (.pass n k (.sample2 j)))

/-- The state R131 warns of: the gate open with no tube selected. It is not forbidden. -/
def FloatingGate (s : State) : Prop := s.gate = true ∧ s.anode = 0#6

end Sys2Proof.Safety
end

