-- ==== Sys2Proof/Certificates/Slice0/Obligations.lean ====
section
/-! DEFINITION. The statements for the provers, in the order of the spec's files: encoding, the step, reset, exceptions, each
command's result with its frame (the form `t = { s with … }` says that every field not named is unchanged), and the
invariants. -/

open Sys2Proof Sys2Proof.Machine Sys2Proof.Safety

/-! ## Encoding (30_encoding.md) -/

/-- R61, R66: each operand goes to its field, and the decoder reads every one back. -/
def Obligations.DecodeReadsEveryEncodedCommand : Prop :=
  ∀ i : Instr, decode (encode i) = some i ∧ decodeTableWord 32 (encode i).toNat = some i

/-- R62, R65: a word spells at most one command, and that command's word is the word itself. -/
def Obligations.EncodeReturnsTheDecodedWord : Prop :=
  ∀ (w : Word) (i : Instr), decode w = some i → encode i = w

/-- R62: "a word W spells it exactly when `(W & mask) = match`", with `match = OP << 24`; every other
word is illegal (R63), and no word matches two rows. -/
def Obligations.DecoderFollowsTheMaskTable : Prop :=
  (∀ w : Word, (decode w).isSome = opcodeRows.any fun r => r.spells w) ∧
  (∀ (w : Word) (i : Instr), decode w = some i → ∃ r, opcodeRows[rowIndex i]? = some r ∧ r.spells w = true) ∧
  (∀ i : Instr, ∃ r, opcodeRows[rowIndex i]? = some r ∧ r.pattern = opcode i ++ 0#24) ∧
  (∀ (w : Word) (m n : Nat) (r r' : OpcodeRow), opcodeRows[m]? = some r → opcodeRows[n]? = some r' →
    r.spells w = true → r'.spells w = true → m = n)

/-- Words of 95_test_vectors.md, one of each family, and words R63 calls illegal. -/
def Obligations.VectorWordsDecode : Prop :=
  decode 0x01000000#32 = some .hven ∧ decode 0x03002710#32 = some (.seton 10000#16) ∧
  decode 0x050000BE#32 = some (.settgt 190#8) ∧ decode 0x1105000F#32 = some (.wrlive 5#8 15#4) ∧
  decode 0x12000031#32 = some (.wrmask 0b110001#6) ∧ decode 0x13020064#32 = some (.wrdwell 2#8 100#16) ∧
  decode 0x14173B3B#32 = some (.showtime 23#8 59#8 59#8) ∧ decode 0x20000005#32 = some (.depoison 5#16) ∧
  decode 0x21000001#32 = some (.fault 0#8 true) ∧ decode 0x31000000#32 = some .btnadj ∧
  decode 0x40220000#32 = some (.rdreg 0x22#8) ∧
  decode 0x00000000#32 = none ∧ decode 0xFFFFFFFF#32 = none ∧ decode 0x01000001#32 = none ∧
  decode 0x05000100#32 = none

/-- R61: the operand ranges of each command, spelled out; every other command takes any operand. -/
def Obligations.WellFormedIsTheRangeTable : Prop :=
  (∀ d : BitVec 4, (Instr.bcd d).wellFormed = true ↔ d.toNat ≤ 9 ∨ d.toNat = 15) ∧
  (∀ (p : BitVec 8) (d : BitVec 4),
    (Instr.wrlive p d).wellFormed = true ↔ p.toNat ≤ 5 ∧ (d.toNat ≤ 9 ∨ d.toNat = 15)) ∧
  (∀ (p : BitVec 8) (c : BitVec 16), (Instr.wrdwell p c).wellFormed = true ↔ p.toNat ≤ 5) ∧
  (∀ h m n : BitVec 8, (Instr.showtime h m n).wellFormed = true ↔ h.toNat ≤ 23 ∧ m.toNat ≤ 59 ∧ n.toNat ≤ 59) ∧
  (∀ (c : BitVec 8) (b : Bool), (Instr.fault c b).wellFormed = true ↔ c.toNat ≤ 9) ∧
  (∀ x : BitVec 8, (Instr.rdreg x).wellFormed = true ↔
    x.toNat ≤ 0x0B ∨ (0x10 ≤ x.toNat ∧ x.toNat ≤ 0x15) ∨ (0x18 ≤ x.toNat ∧ x.toNat ≤ 0x1D) ∨
    (0x20 ≤ x.toNat ∧ x.toNat ≤ 0x25) ∨ (0x28 ≤ x.toNat ∧ x.toNat ≤ 0x2C)) ∧
  (∀ (v : BitVec 16) (b : BitVec 8) (m : BitVec 6),
    [Instr.hven, .hvdis, .seton v, .settop v, .settgt b, .thresh v, .sample, .regstep, .cal, .wrmask m, .render,
      .depoison v, .btnmode, .btnadj].all Instr.wellFormed = true)

/-! ## The step (R8, R21, R64, R114, R130) -/

/-- R21, R64: with a word accepted and no edge pending, the step is `exec` of the command the word spells. That the decode
step and the command's first STEP are one step is the model's choice (log entry 4: R64 puts the one before the other); what
the step adds is the taking of the `run` input, listed or free (log entry 3); the host's own moves wait for READY and are
not taken. The last clause is for every position of `seq`, for the tick handler, and for Idle: the step `t` a state makes
with nothing to come is the step it makes when a `run` input comes next, or while the host's next offer or its start of
the 1 Hz signal waits, but for the inputs still to come. -/
def Obligations.StepRunsTheDecodedCommand : Prop :=
  (∀ (s : State) (w : Word) (i : Instr), s.seq = .busy w .start → s.tickPending = 0 → decode w = some i →
    (s.env.upcoming = none → step s = exec i s) ∧
    (∀ rest, s.env.inputs = .run :: rest → step s = exec i { s with env := { s.env with inputs := rest } }) ∧
    (s.env.inputs = [] → s.env.onward = .free → Config.freeInput s.env.arrived = .run →
      step s = exec i { s with env := { s.env with arrived := s.env.arrived + 1 } }) ∧
    (∀ v, s.env.upcoming = some (.offer v) → step s = exec i s) ∧
    (s.env.upcoming = some .startTick → step s = exec i s)) ∧
  (∀ s t : State, step { s with env := { s.env with inputs := [], onward := .quiet } } = .next t →
    (∀ rest, s.env.inputs = .run :: rest →
      step s = .next { t with env := { t.env with inputs := rest, onward := s.env.onward } }) ∧
    (s.env.inputs = [] → s.env.onward = .free → Config.freeInput s.env.arrived = .run →
      step s = .next { t with env := { t.env with inputs := [], onward := .free, arrived := s.env.arrived + 1 } }) ∧
    (s.seq ≠ .idle ∨ s.cmdIn ≠ none → s.env.upcoming = some .startTick ∨ (∃ v, s.env.upcoming = some (.offer v)) →
      step s = .next { t with env := { t.env with inputs := s.env.inputs, onward := s.env.onward } }))

/-- R21: "A command word is accepted only in `Idle`. Acceptance moves `seq` to `Busy(cmd, 0)`." With no word offered the
core waits (acceptance as a step: log entry 4). -/
def Obligations.AcceptanceHappensInIdle : Prop :=
  ∀ s : State, Alone s → s.seq = .idle →
    (∀ w, s.cmdIn = some w → step s = .next { s with seq := .busy w .start, cmdIn := none }) ∧
    (s.cmdIn = none → step s = .next s)

/-- R130: a word offered while the core is Busy or Halted waits and is not lost; R126: the host offers a word only when
READY is 1, so an offer that comes earlier is not taken and stays the next input; R114: an arriving edge adds one to the
pending edges, so none is lost and none is merged, and before the host starts the signal no edge arrives. An input is the
next one listed or, with none listed, a free one; `advance` is the environment without it (log entry 3). R128 step 5: while
a host that keeps its duties (log entries 22, 23) has a boot move before the start of the signal to make, the signal stays
off and no edge is pending. -/
def Obligations.OffersAndEdgesWait : Prop :=
  (∀ s t : State, s.seq ≠ .idle → NoReset s → step s = .next t → t.cmdIn = s.cmdIn) ∧
  (∀ e : Env,
    (∀ i rest, e.inputs = i :: rest → e.upcoming = some i ∧ e.advance = { e with inputs := rest }) ∧
    (e.inputs = [] → e.onward = .free →
      e.upcoming = some (Config.freeInput e.arrived) ∧ e.advance = { e with arrived := e.arrived + 1 })) ∧
  (∀ (s t : State) (w : Word), s.env.upcoming = some (.offer w) → s.seq ≠ .idle ∨ s.cmdIn ≠ none → step s = .next t →
    t.env.inputs = s.env.inputs ∧ t.env.upcoming = some (.offer w)) ∧
  (∀ (s : State) (w : Word), s.env.upcoming = some (.offer w) → s.seq = .idle → s.cmdIn = none →
    step s = .next { s with cmdIn := some w, env := s.env.advance }) ∧
  (∀ s : State, s.env.upcoming = some .tick →
    (s.env.tickOn = true → step s = .next { s with tickPending := s.tickPending + 1, env := s.env.advance }) ∧
    (s.env.tickOn = false → step s = .next { s with env := s.env.advance })) ∧
  (∀ s : State, s.env.upcoming = some .startTick → s.seq = .idle → s.cmdIn = none →
    step s = .next { s with env := { s.env.advance with tickOn := true } }) ∧
  (∀ (h : Config.HostParams) (n : Nat) (m : Config.Input) (boot : List Config.Input) (s t : State),
    KeepsDuties h (n + 1) (m :: boot) s → m ≠ .startTick → s.env.tickOn = false → s.tickPending = 0 → step s = .next t →
    t.env.tickOn = false ∧ t.tickPending = 0)

/-- R111: "The core has no other exception." No state stops the machine. -/
def Obligations.EveryStepProceeds : Prop := ∀ s : State, ∃ t, step s = .next t

/-- R21, R98: "The command port accepts no further word, and only reset leaves the state." -/
def Obligations.HaltedLeavesOnlyByReset : Prop :=
  ∀ (s t : State) (k : FaultPos), s.seq = .halted k → NoReset s → step s = .next t →
    (∃ k', t.seq = .halted k') ∧ t.cmdIn = s.cmdIn

/-! ## Reset (10_state.md R42, 70_reset_and_hazards.md R127) -/

/-- R42, for every part that meets R10; R127: nothing on the CMD port and no pending edge. That `State.reset` is the reset
state of the opaque part `Config.part` is the model's choice (log entry 1). -/
def Obligations.ResetGivesTheListedValues : Prop :=
  State.reset = State.resetOf Config.part ∧
  ∀ c : Config.Params, c.Valid →
    (State.resetOf c).cfg = c ∧ (State.resetOf c).seq = .idle ∧ (State.resetOf c).res = 0#16 ∧
    (State.resetOf c).err = false ∧ (State.resetOf c).halted = false ∧
    (State.resetOf c).pwmOn.toNat = c.pulseDefault ∧ (State.resetOf c).pwmTop.toNat = c.topDefault ∧
    (State.resetOf c).target.toNat = c.targetDefault ∧
    (State.resetOf c).thr.toNat =
      min ((c.targetDefault * 1000 * c.rLow * 2 ^ c.adcBits) / ((c.rHigh + c.rLow) * c.vrefMv)) 0xFFFF ∧
    (State.resetOf c).acc = 0#32 ∧ (State.resetOf c).seeded = false ∧ (State.resetOf c).gate = false ∧
    (State.resetOf c).hvlife = .disabled ∧
    (∀ p : Position, (State.resetOf c).live[p] = 15#4 ∧ (State.resetOf c).ovl[p] = 15#4 ∧
      (State.resetOf c).dwell[p].toNat = c.dwellDefault) ∧
    (State.resetOf c).mask = 0b111111#6 ∧ (State.resetOf c).anode = 0#6 ∧ (State.resetOf c).bcd = 0b1111#4 ∧
    (State.resetOf c).ui = .idle ∧
    (State.resetOf c).pend = { year := 0#7, month := 1#4, day := 1#5, hour := 0#5, minute := 0#6 } ∧
    (State.resetOf c).sec = 0#8 ∧ (State.resetOf c).log = [] ∧
    (State.resetOf c).cmdIn = none ∧ (State.resetOf c).tickPending = 0

/-- R127: RESET, from any state, in one transition; the part and its environment stay, but for the 1 Hz signal, which the
boot has to start again (R128 step 5; log entry 9). The input is listed or free, and `advance` is the environment without
it (log entry 3). -/
def Obligations.ResetInputAbandonsEverything : Prop :=
  ∀ s : State, s.env.upcoming = some .reset →
    ∃ t, step s = .next t ∧
      t = { State.resetOf s.cfg with env := { s.env.advance with tickOn := false } } ∧
      t.seq = .idle ∧ t.cmdIn = none ∧ t.tickPending = 0 ∧ t.anode = 0#6 ∧ t.bcd = 0b1111#4 ∧ t.gate = false

/-! ## IllegalCommand (60_exceptions.md R110) -/

/-- R110, R63, R60: the word spells no command, or its operand is out of range; `err <- 1` and nothing else. -/
def Obligations.IllegalWordSetsErrAlone : Prop :=
  ∀ (s : State) (w : Word), s.seq = .busy w .start → Alone s →
    (decode w = none ∨ ∃ i, decode w = some i ∧ i.wellFormed = false) →
    step s = .next { s with err := true, seq := .idle }

/-- R110: a well-formed command raises nothing, and an ill-formed one does nothing else. -/
def Obligations.ExecRaisesExactlyWhenIllFormed : Prop :=
  (∀ (i : Instr) (s : State), i.wellFormed = false → exec i s = .next { s with err := true, seq := .idle }) ∧
  (∀ (i : Instr) (s t : State), i.wellFormed = true → exec i s = .next t → t.err = s.err)

/-- R110: "No rule raises IllegalCommand after a command's first STEP"; R22: `err` is sticky. -/
def Obligations.ErrChangesOnlyInTheDecodeStep : Prop :=
  ∀ s t : State, NoReset s → step s = .next t →
    (s.err = true → t.err = true) ∧ (t.err ≠ s.err → ∃ w, s.seq = .busy w .start ∧ t.seq = .idle)

/-! ## The tick (60_exceptions.md R113, R114, R116) -/

/-- R113, R114: the handler's STEP, whatever the sequencer is doing: it writes nothing else, and it clears one pending edge.
It comes with nothing else to come, while a move of the host waits, and at a `run` input, listed or free, which is taken
(`e` is the environment left). The count of pending edges, taken before the sequencer's next STEP, is the model's reading
of R114 (log entries 3, 8). -/
def Obligations.TickHandlerCountsTheSecond : Prop :=
  ∀ (s : State) (n : Nat) (e : Env), s.tickPending = n + 1 →
    ((s.env.upcoming = none ∨ HostWaits s) ∧ e = s.env) ∨
      (∃ rest, s.env.inputs = .run :: rest ∧ e = { s.env with inputs := rest }) ∨
      (s.env.inputs = [] ∧ s.env.onward = .free ∧ Config.freeInput s.env.arrived = .run ∧
        e = { s.env with arrived := s.env.arrived + 1 }) →
    ∃ t, step s = .next t ∧ t.sec.toNat = (s.sec.toNat + 1) % 256 ∧
      t.live[0].toNat = t.sec.toNat % 60 % 10 ∧ t.live[1].toNat = t.sec.toNat % 60 / 10 ∧
      (∀ p : Position, 2 ≤ p.val → t.live[p] = s.live[p]) ∧
      reread t = decide (60 ≤ t.sec.toNat) ∧
      t = { s with sec := t.sec, live := t.live, tickPending := n, env := e }

/-! ## The HV regulator (40_hv_regulator.md) -/

/-- R72, R73. -/
def Obligations.HvenAndHvdisSwitchTheGate : Prop :=
  encode .hven = 0x01000000#32 ∧ encode .hvdis = 0x02000000#32 ∧
  ∀ s : State,
    (s.hvlife = .disabled → exec .hven s = .next { s with gate := true, hvlife := .steady, seq := .idle }) ∧
    (s.hvlife ≠ .disabled → exec .hven s = .next { s with gate := true, seq := .idle }) ∧
    exec .hvdis s = .next { s with gate := false, seq := .idle }

/-- R74: the clamp, and the period raised only when the pulse width would break the margin. -/
def Obligations.SetonClampsAndRaisesThePeriod : Prop :=
  (∀ v : BitVec 16, (encode (.seton v)).toNat = 0x03000000 + v.toNat) ∧
  ∀ (s : State) (v : BitVec 16), s.cfg.Valid →
    ∃ t, exec (.seton v) s = .next t ∧
      t.pwmOn.toNat = min (max v.toNat s.cfg.pulseMin) s.cfg.pulseMax ∧
      t.pwmTop.toNat =
        (if s.pwmTop.toNat < t.pwmOn.toNat + s.cfg.margin then t.pwmOn.toNat + s.cfg.margin else s.pwmTop.toNat) ∧
      t = { s with pwmOn := t.pwmOn, pwmTop := t.pwmTop, seq := .idle }

/-- R75: `on` is never changed. -/
def Obligations.SettopClampsAboveThePulse : Prop :=
  (∀ v : BitVec 16, (encode (.settop v)).toNat = 0x04000000 + v.toNat) ∧
  ∀ (s : State) (v : BitVec 16), s.cfg.Valid → PwmInRange s →
    ∃ t, exec (.settop v) s = .next t ∧
      t.pwmTop.toNat = max (min (max v.toNat s.cfg.topMin) s.cfg.topMax) (s.pwmOn.toNat + s.cfg.margin) ∧
      t.pwmTop.toNat ≤ s.cfg.topMax ∧
      t = { s with pwmTop := t.pwmTop, seq := .idle }

/-- R74, R75, corner cases: a second SETON or SETTOP with the same value changes nothing. -/
def Obligations.SetonAndSettopAreIdempotent : Prop :=
  ∀ (s : State) (v : BitVec 16), s.cfg.Valid →
    (∀ t, exec (.seton v) s = .next t → exec (.seton v) t = .next t) ∧
    (∀ t, exec (.settop v) s = .next t → exec (.settop v) t = .next t)

/-- R137: both orders in closed form, and exactly when they agree. -/
def Obligations.SetonSettopOrderMatters : Prop :=
  ∀ (s : State) (a b : BitVec 16), s.cfg.Valid → PwmInRange s →
    ∃ s1 t u1 u, exec (.settop a) s = .next s1 ∧ exec (.seton b) s1 = .next t ∧
      exec (.seton b) s = .next u1 ∧ exec (.settop a) u1 = .next u ∧
      t.pwmOn.toNat = min (max b.toNat s.cfg.pulseMin) s.cfg.pulseMax ∧ u.pwmOn = t.pwmOn ∧
      t.pwmTop.toNat = max (max (min (max a.toNat s.cfg.topMin) s.cfg.topMax) (s.pwmOn.toNat + s.cfg.margin))
        (t.pwmOn.toNat + s.cfg.margin) ∧
      u.pwmTop.toNat = max (min (max a.toNat s.cfg.topMin) s.cfg.topMax) (t.pwmOn.toNat + s.cfg.margin) ∧
      (t.pwmTop = u.pwmTop ↔
        s.pwmOn.toNat ≤ t.pwmOn.toNat ∨
        s.pwmOn.toNat + s.cfg.margin ≤ min (max a.toNat s.cfg.topMin) s.cfg.topMax)

/-- R76, R77, R69: the threshold in `thr` and in `res`, saturated at 0xFFFF. -/
def Obligations.SettgtAndThreshComputeThresholds : Prop :=
  ∀ (s : State) (v : BitVec 8) (u : BitVec 16),
    (encode (.settgt v)).toNat = 0x05000000 + v.toNat ∧ (encode (.thresh u)).toNat = 0x06000000 + u.toNat ∧
    (∃ t, exec (.settgt v) s = .next t ∧
      t.thr.toNat =
        min ((v.toNat * 1000 * s.cfg.rLow * 2 ^ s.cfg.adcBits) / ((s.cfg.rHigh + s.cfg.rLow) * s.cfg.vrefMv)) 0xFFFF ∧
      t = { s with target := v, thr := t.thr, seq := .idle }) ∧
    (∃ t, exec (.thresh u) s = .next t ∧
      t.res.toNat =
        min ((u.toNat * 1000 * s.cfg.rLow * 2 ^ s.cfg.adcBits) / ((s.cfg.rHigh + s.cfg.rLow) * s.cfg.vrefMv)) 0xFFFF ∧
      t = { s with res := t.res, seq := .idle })

/-- R78, R70: the first sample seeds the average; a later one is folded in. `adcDraw s` is the raw sample: the queued
answer where one is queued, and any value of the range where none is. -/
def Obligations.SampleFoldsOneReading : Prop :=
  encode .sample = 0x07000000#32 ∧
  ∀ s : State, s.cfg.Valid → AccOk s →
    ∃ t, exec .sample s = .next t ∧
      adcDraw s ≤ 2 ^ s.cfg.adcBits - 1 ∧
      (∀ r rest, s.env.adc = r :: rest → r ≤ 2 ^ s.cfg.adcBits - 1 → adcDraw s = r ∧ t.env.adc = rest) ∧
      (s.seeded = false → t.acc.toNat = adcDraw s * 800) ∧
      (s.seeded = true → t.acc.toNat = s.acc.toNat - s.acc.toNat / 800 + adcDraw s) ∧
      t.res.toNat = t.acc.toNat / 800 ∧ t.seeded = true ∧
      t.env = (popAdc s).env ∧
      t = { s with acc := t.acc, seeded := true, res := t.res, env := t.env, seq := .idle }

/-- R78, corner cases: the average stays at a raw value it equals, and moves toward any other. -/
def Obligations.SampleMovesTowardTheInput : Prop :=
  ∀ s t : State, s.cfg.Valid → AccOk s → s.seeded = true → exec .sample s = .next t →
    (adcDraw s = s.acc.toNat / 800 → t.acc = s.acc) ∧
    (s.acc.toNat / 800 < adcDraw s → s.acc.toNat < t.acc.toNat) ∧
    (adcDraw s < s.acc.toNat / 800 → t.acc.toNat < s.acc.toNat)

/-- R79, R71: the step table, the direction, and the clamp of R75; `on` is never written. -/
def Obligations.RegstepMovesThePeriod : Prop :=
  encode .regstep = 0x08000000#32 ∧
  ∀ s : State, s.cfg.Valid → AccOk s → PwmInRange s →
    ∃ t, exec .regstep s = .next t ∧
      t.res.toNat = t.acc.toNat / 800 ∧
      (∃ d : Int,
        d = (if 20 < ((t.res.toNat : Int) - s.thr.toNat).natAbs then 50
             else if 10 < ((t.res.toNat : Int) - s.thr.toNat).natAbs then 5 else 1) ∧
        (t.pwmTop.toNat : Int) =
          max (min (max (if t.res.toNat < s.thr.toNat then s.pwmTop.toNat + d else s.pwmTop.toNat - d) s.cfg.topMin)
            s.cfg.topMax) (s.pwmOn.toNat + s.cfg.margin)) ∧
      (s.seeded = false → t.acc.toNat = adcDraw s * 800) ∧
      (s.seeded = true → t.acc.toNat = s.acc.toNat - s.acc.toNat / 800 + adcDraw s) ∧
      t.env = (popAdc s).env ∧
      t = { s with acc := t.acc, seeded := true, res := t.res, pwmTop := t.pwmTop, env := t.env, seq := .idle }

/-- R80: the first STEP of CAL, and the STEPs that begin pass 2, begin pass 3 and fix the final pulse width; R74: each of
the three raises `top` only where the new pulse width would break the margin. -/
def Obligations.CalStartsEachPass : Prop :=
  (∀ s : State, ∃ c : CalCtx,
    c.savedLive = s.live ∧ c.savedMask = s.mask ∧ c.thrNom = s.thr ∧
    c.thrCal.toNat =
      min (((s.target.toNat + 5) * 1000 * s.cfg.rLow * 2 ^ s.cfg.adcBits) / ((s.cfg.rHigh + s.cfg.rLow) * s.cfg.vrefMv))
        0xFFFF ∧
    (s.cfg.calP1Iters = 0 →
      exec .cal s = .next { s with hvlife := .calibrating, seq := .busy 0x09000000#32 (.cal c (.search .begin2)) }) ∧
    (0 < s.cfg.calP1Iters →
      exec .cal s = .next { s with
        hvlife := .calibrating, seq := .busy 0x09000000#32 (.cal c (.search (.regulate1 s.cfg.calP1Iters))) })) ∧
  (∀ (s : State) (w : Word) (c : CalCtx) (bottom : BitVec 16) (k : CalStep), s.cfg.Valid → PwmInRange s → Alone s →
    s.seq = .busy w (.cal c (.search k)) → k ∈ [.begin2, .begin3, .settle bottom] →
    ∃ t, step s = .next t ∧
      (k = .begin2 → t.pwmOn.toNat = s.cfg.pulseMin ∧ t.seq = .busy w (.cal c (.search (.sample2 0)))) ∧
      (k = .begin3 → t.pwmOn.toNat = min (s.pwmOn.toNat + 50) s.cfg.pulseMax ∧
        t.seq = .busy w (.cal c (.search (.sample3 s.pwmOn 0)))) ∧
      (k = .settle bottom →
        t.pwmOn.toNat = min (max ((bottom.toNat + s.pwmOn.toNat) / 2) s.cfg.pulseMin) s.cfg.pulseMax ∧
        (s.cfg.calP4Iters = 0 → t.seq = .busy w (.cal c (.search .restore))) ∧
        (0 < s.cfg.calP4Iters →
          t.seq = .busy w (.cal c (.search (.regulate4 bottom s.pwmOn s.cfg.calP4Iters))))) ∧
      t.pwmTop.toNat =
        (if s.pwmTop.toNat < t.pwmOn.toNat + s.cfg.margin then t.pwmOn.toNat + s.cfg.margin else s.pwmTop.toNat) ∧
      t = { s with pwmOn := t.pwmOn, pwmTop := t.pwmTop, seq := t.seq })

/-- R80: whatever CAL does, its STEPs keep `thr`, `target`, `err`, `ovl`, `dwell`, `ui`, `pend`, `log` and `res`, and the
saved frame and mask, until the last one puts them back and sets `hvlife` to Steady. The content STEP of CalDisplay draws
the six digits, position 0 first, and then the mask (log entry 2); a pass over them follows where one is lit. Where no
lit position is left, the next display pass comes, or with none left the STEP after the display (positions: log
entry 5). -/
def Obligations.CalRestoresTheDisplay : Prop :=
  (∀ (s t : State) (w : Word) (c : CalCtx) (k : CalPos), s.seq = .busy w (.cal c k) → Alone s → step s = .next t →
    (t.thr = s.thr ∧ t.target = s.target ∧ t.err = s.err ∧ t.ovl = s.ovl ∧ t.dwell = s.dwell ∧ t.ui = s.ui ∧
      t.pend = s.pend ∧ t.log = s.log ∧ t.res = s.res ∧ t.sec = s.sec) ∧
    ((∃ k', t.seq = .busy w (.cal c k') ∧ t.hvlife = s.hvlife) ∨
      (k = .search .restore ∧ t = { s with live := c.savedLive, mask := c.savedMask, hvlife := .steady, seq := .idle }))) ∧
  (∀ (s : State) (w : Word) (c : CalCtx) (left : Nat) (after : CalStep), Alone s →
    s.seq = .busy w (.cal c (.content left after)) →
    ∃ t, step s = .next t ∧
      (∀ p : Position, t.live[p] = digitDraw (popDigits p.val s)) ∧ t.mask = maskDraw (popDigits 6 s) ∧
      t.env = (popMask (popDigits 6 s)).env ∧
      (∀ (f : Frame) (rest : List Digit), s.env.digits = f.toList ++ rest → FrameOk f → t.live = f ∧ t.env.digits = rest) ∧
      (∀ m rest, s.env.masks = m :: rest → t.mask = m ∧ t.env.masks = rest) ∧
      (∀ q : Position, t.mask.getLsbD q.val = true → (∀ r : Position, r < q → t.mask.getLsbD r.val = false) →
        t.seq = .busy w (.cal c (.pass left ⟨q, .selBcd⟩ after))) ∧
      (t.mask = 0#6 →
        t.seq = .busy w (.cal c (if left ≤ 1 then .search after else .content (left - 1) after))) ∧
      t = { s with live := t.live, mask := t.mask, seq := t.seq, env := t.env }) ∧
  (∀ (s : State) (w : Word) (c : CalCtx) (left : Nat) (after : CalStep) (i : Position), Alone s →
    s.seq = .busy w (.cal c (.pass left ⟨i, .gap⟩ after)) → (∀ q : Position, i < q → s.mask.getLsbD q.val = false) →
    step s = .next { s with
      anode := 0#6, gate := false
      seq := .busy w (.cal c (if left ≤ 1 then .search after else .content (left - 1) after)) })

/-- R80, pass 2: the pulse width rises by one on every 8th reading below the nominal threshold, and the pass ends at the
first reading that is not below it. While it goes on the count of readings goes from `j` to `j + 1`, and the next reading
comes after the display passes drawn (0 of them: at once). -/
def Obligations.CalPassTwoRaisesThePulse : Prop :=
  ∀ (s : State) (w : Word) (c : CalCtx) (j : Nat), s.cfg.Valid → PwmInRange s → Alone s →
    s.seq = .busy w (.cal c (.search (.sample2 j))) →
    ∃ t, step s = .next t ∧ t.acc = (sampleSmoothed s).acc ∧ t.seeded = true ∧
      (c.thrNom.toNat ≤ t.acc.toNat / 800 →
        t.seq = .busy w (.cal c (.search .begin3)) ∧ t.pwmOn = s.pwmOn ∧ t.pwmTop = s.pwmTop ∧
        t.env = (popAdc s).env) ∧
      (t.acc.toNat / 800 < c.thrNom.toNat →
        (passesDraw 0 (popAdc s) = 0 → t.seq = .busy w (.cal c (.search (.sample2 (j + 1))))) ∧
        (∀ n, passesDraw 0 (popAdc s) = n + 1 → t.seq = .busy w (.cal c (.content (n + 1) (.sample2 (j + 1))))) ∧
        t.env = (popPasses (popAdc s)).env ∧
        ((j + 1) % 8 = 0 → t.pwmOn.toNat = min (s.pwmOn.toNat + 1) s.cfg.pulseMax ∧
          t.pwmTop.toNat =
            (if s.pwmTop.toNat < t.pwmOn.toNat + s.cfg.margin then t.pwmOn.toNat + s.cfg.margin
             else s.pwmTop.toNat)) ∧
        ((j + 1) % 8 ≠ 0 → t.pwmOn = s.pwmOn ∧ t.pwmTop = s.pwmTop)) ∧
      t = { s with pwmOn := t.pwmOn, pwmTop := t.pwmTop, acc := t.acc, seeded := true, seq := t.seq, env := t.env }

/-- R80, passes 1, 3 and 4: pass 3 lowers the pulse width by one on every 8th reading above the nominal threshold and ends
at the first reading that is not above it; while it goes on its count goes from `j` to `j + 1`, and `bottom` stays. The
regulation STEPs of passes 1 and 4 move the period alone, and each leaves one iteration less: after the last of pass 1
pass 2 begins, and after the last of pass 4 the final STEP comes. Each iteration is followed by the display passes drawn
(0 of them: none). -/
def Obligations.CalPassThreeLowersThePulse : Prop :=
  (∀ (s : State) (w : Word) (c : CalCtx) (bottom : BitVec 16) (j : Nat), s.cfg.Valid → PwmInRange s → Alone s →
    s.seq = .busy w (.cal c (.search (.sample3 bottom j))) →
    ∃ t, step s = .next t ∧ t.acc = (sampleSmoothed s).acc ∧ t.seeded = true ∧
      (t.acc.toNat / 800 ≤ c.thrNom.toNat →
        t.seq = .busy w (.cal c (.search (.settle bottom))) ∧ t.pwmOn = s.pwmOn ∧ t.pwmTop = s.pwmTop ∧
        t.env = (popAdc s).env) ∧
      (c.thrNom.toNat < t.acc.toNat / 800 →
        (passesDraw 0 (popAdc s) = 0 → t.seq = .busy w (.cal c (.search (.sample3 bottom (j + 1))))) ∧
        (∀ n, passesDraw 0 (popAdc s) = n + 1 →
          t.seq = .busy w (.cal c (.content (n + 1) (.sample3 bottom (j + 1))))) ∧
        t.env = (popPasses (popAdc s)).env ∧
        ((j + 1) % 8 = 0 → t.pwmOn.toNat = max (s.pwmOn.toNat - 1) s.cfg.pulseMin ∧ t.pwmTop = s.pwmTop) ∧
        ((j + 1) % 8 ≠ 0 → t.pwmOn = s.pwmOn ∧ t.pwmTop = s.pwmTop)) ∧
      t = { s with pwmOn := t.pwmOn, pwmTop := t.pwmTop, acc := t.acc, seeded := true, seq := t.seq, env := t.env }) ∧
  (∀ (s : State) (w : Word) (c : CalCtx) (bottom topb : BitVec 16) (left : Nat) (k k' : CalStep), s.cfg.Valid →
    PwmInRange s → Alone s → s.seq = .busy w (.cal c (.search k)) →
    (k = .regulate1 left ∧ k' = if left ≤ 1 then .begin2 else .regulate1 (left - 1)) ∨
      (k = .regulate4 bottom topb left ∧ k' = if left ≤ 1 then .restore else .regulate4 bottom topb (left - 1)) →
    ∃ t, step s = .next t ∧ t.acc = (sampleSmoothed s).acc ∧ t.seeded = true ∧
      (t.pwmTop.toNat : Int) =
        max (min (max
          (if t.acc.toNat / 800 < c.thrCal.toNat
           then s.pwmTop.toNat + (regStepSize (t.acc.toNat / 800) c.thrCal.toNat : Int)
           else s.pwmTop.toNat - (regStepSize (t.acc.toNat / 800) c.thrCal.toNat : Int)) s.cfg.topMin) s.cfg.topMax)
          (s.pwmOn.toNat + s.cfg.margin) ∧
      (passesDraw 0 (popAdc s) = 0 → t.seq = .busy w (.cal c (.search k'))) ∧
      (∀ n, passesDraw 0 (popAdc s) = n + 1 → t.seq = .busy w (.cal c (.content (n + 1) k'))) ∧
      t.env = (popPasses (popAdc s)).env ∧
      t = { s with pwmTop := t.pwmTop, acc := t.acc, seeded := true, seq := t.seq, env := t.env })

/-- R135: with the nominal threshold out of the sensor's reach, CAL pass 2 goes on for ever: every step but RESET leaves
the machine in it. -/
def Obligations.CalPassTwoCanHang : Prop :=
  ∀ (s t : State) (c : CalCtx), s.cfg.Valid → AccOk s → inPass2 s.seq c → 2 ^ s.cfg.adcBits - 1 < c.thrNom.toNat →
    NoReset s → step s = .next t → inPass2 t.seq c ∧ AccOk t ∧ t.cfg = s.cfg

/-- R68: under steady `gate`, `on` and `top`, in each period of `top + 1` clocks the switch conducts for the first `on` clocks
and is off for the rest while the gate is open, and it is off while the gate is closed. The timer beside the machine, as log
entries 12 (DEDUCED) and 20 (DESIGN CHOICE) have it: the switch is held off while the core's gate is closed, whatever the
timer holds, and else it compares the count with the buffered pulse width; so in the middle of a period a write of `on` or
`top` changes nothing; a gate that closes ends the pulse at once,
and one that opens stays unseen until the period ends; the next period takes up all three. While the timer has them as they
are, its output is the steady waveform. The clause about a step covers a RESET too: that the timer's count and buffers run on
through it is the model's choice (log entry 20), no rule of the spec. -/
def Obligations.PwmConductsForThePulseWidth : Prop :=
  (∀ s : State, PwmInRange s →
    pwmPeriod s = s.pwmTop.toNat + 1 ∧
    (s.gate = true → ∀ n, n ≤ s.pwmTop.toNat → pwmPort s n = decide (n < s.pwmOn.toNat)) ∧
    (s.gate = true → (List.range (pwmPeriod s)).countP (fun n => pwmPort s n) = s.pwmOn.toNat) ∧
    (s.gate = false → ∀ n, pwmPort s n = false)) ∧
  (∀ (s : State) (count : Nat),
    Observed.output ⟨s, ⟨count, s.gate, s.pwmOn, s.pwmTop⟩⟩ = pwmPort s count) ∧
  (∀ o : Observed,
    o.output = (o.core.gate && o.timer.gate && decide (o.timer.count < o.timer.pulse.toNat)) ∧
    (o.core.gate = false → o.output = false) ∧
    (o.timer.count < o.timer.top.toNat →
      observe .clock o =
        ⟨o.core, { o.timer with count := o.timer.count + 1, gate := o.timer.gate && o.core.gate }⟩) ∧
    (o.timer.top.toNat ≤ o.timer.count →
      observe .clock o = ⟨o.core, ⟨0, o.core.gate, o.core.pwmOn, o.core.pwmTop⟩⟩) ∧
    (∀ t, step o.core = .next t →
      observe .step o = ⟨t, { o.timer with gate := o.timer.gate && o.core.gate && t.gate }⟩)) ∧
  (∀ (o : Observed) (m : Moment),
    ((observe m o).timer.gate = true → (observe m o).core.gate = true) ∧
    ((observe m o).output = true → (observe m o).core.gate = true) ∧
    (o.timer.gate = false ∨ o.core.gate = false → m = .step ∨ o.timer.count < o.timer.top.toNat →
      (observe m o).output = false))

/-! ## The multiplexer and the buffers (41_multiplexer.md) -/

/-- R87, R81: BCD writes `res` alone; R89: WRMASK writes `mask` alone. -/
def Obligations.BcdReportsAndWrmaskWrites : Prop :=
  (∀ (d : BitVec 4) (m : BitVec 6),
    (encode (.bcd d)).toNat = 0x10000000 + d.toNat ∧ (encode (.wrmask m)).toNat = 0x12000000 + m.toNat) ∧
  (∀ (s : State) (d : BitVec 4),
    (d.toNat ≤ 9 ∨ d.toNat = 15 →
      ∃ t, exec (.bcd d) s = .next t ∧ t.res.toNat = d.toNat ∧ t = { s with res := t.res, seq := .idle }) ∧
    (10 ≤ d.toNat → d.toNat ≤ 14 → exec (.bcd d) s = .next { s with err := true, seq := .idle })) ∧
  (∀ (s : State) (m : BitVec 6), exec (.wrmask m) s = .next { s with mask := m, seq := .idle })

/-- R88; a word with OP 0x11 and a bit of B[15:4] set is malformed: it decodes to nothing, and its decode step is
IllegalCommand. -/
def Obligations.WrliveWritesOneDigit : Prop :=
  (∀ (a : BitVec 8) (d : BitVec 4), (encode (.wrlive a d)).toNat = 0x11000000 + a.toNat * 2 ^ 16 + d.toNat) ∧
  ∀ (s : State) (d : BitVec 4),
    (∀ p : Position, d.toNat ≤ 9 ∨ d.toNat = 15 →
      ∃ t, exec (.wrlive (BitVec.ofNat 8 p.val) d) s = .next t ∧ t.live[p] = d ∧
        (∀ q : Position, q ≠ p → t.live[q] = s.live[q]) ∧ t = { s with live := t.live, seq := .idle }) ∧
    (∀ a : BitVec 8, 5 < a.toNat ∨ (10 ≤ d.toNat ∧ d.toNat ≤ 14) →
      exec (.wrlive a d) s = .next { s with err := true, seq := .idle }) ∧
    (∀ w : Word, w.extractLsb' 24 8 = 0x11#8 → w.extractLsb' 4 12 ≠ 0#12 →
      decode w = none ∧ busyStep w .start s = .next { s with err := true, seq := .idle })

/-- R90: the count clamps to [500, 2000]. -/
def Obligations.WrdwellClampsTheCount : Prop :=
  (∀ (a : BitVec 8) (v : BitVec 16), (encode (.wrdwell a v)).toNat = 0x13000000 + a.toNat * 2 ^ 16 + v.toNat) ∧
  ∀ (s : State) (v : BitVec 16),
    (∀ p : Position,
      ∃ t, exec (.wrdwell (BitVec.ofNat 8 p.val) v) s = .next t ∧ t.dwell[p].toNat = min (max v.toNat 500) 2000 ∧
        (∀ q : Position, q ≠ p → t.dwell[q] = s.dwell[q]) ∧ t = { s with dwell := t.dwell, seq := .idle }) ∧
    (∀ a : BitVec 8, 5 < a.toNat → exec (.wrdwell a v) s = .next { s with err := true, seq := .idle })

/-- R91: the frame HHMMSS, `sec`, and the mask only in Idle; the mask's bits are R86's. -/
def Obligations.ShowtimeShowsTheTime : Prop :=
  ∀ (s : State) (h m n : BitVec 8),
    (encode (.showtime h m n)).toNat = 0x14000000 + h.toNat * 2 ^ 16 + m.toNat * 2 ^ 8 + n.toNat ∧
    (h.toNat ≤ 23 → m.toNat ≤ 59 → n.toNat ≤ 59 →
      ∃ t, exec (.showtime h m n) s = .next t ∧
        t.live[0].toNat = n.toNat % 10 ∧ t.live[1].toNat = n.toNat / 10 ∧
        t.live[2].toNat = m.toNat % 10 ∧ t.live[3].toNat = m.toNat / 10 ∧
        t.live[4].toNat = h.toNat % 10 ∧ t.live[5].toNat = h.toNat / 10 ∧
        t.sec = n ∧ reread t = false ∧
        (s.ui = .idle → t.mask = blankMask h.toNat) ∧ (s.ui ≠ .idle → t.mask = s.mask) ∧
        t = { s with live := t.live, sec := t.sec, mask := t.mask, seq := .idle }) ∧
    (23 < h.toNat ∨ 59 < m.toNat ∨ 59 < n.toNat →
      exec (.showtime h m n) s = .next { s with err := true, seq := .idle })

/-- R86. -/
def Obligations.BlankMaskCascades : Prop :=
  (∀ h : Nat, (blankMask h).getLsbD 5 = decide (h / 10 ≠ 0) ∧
    (blankMask h).getLsbD 4 = (decide (h / 10 ≠ 0) || decide (h % 10 ≠ 0)) ∧
    (∀ i, i < 4 → (blankMask h).getLsbD i = true)) ∧
  blankMask 0 = 0b001111#6 ∧ blankMask 3 = 0b011111#6 ∧ blankMask 10 = 0b111111#6 ∧ blankMask 23 = 0b111111#6

/-- R92, R83: in Idle, RENDER's first STEP is SEL_BCD of the lowest lit position over `live`; with none lit it takes no
STEP. -/
def Obligations.RenderInIdleShowsLive : Prop :=
  ∀ s : State, s.ui = .idle →
    (s.mask = 0#6 → exec .render s = .next { s with seq := .idle }) ∧
    (∀ p : Position, s.mask.getLsbD p.val = true → (∀ q : Position, q < p → s.mask.getLsbD q.val = false) →
      exec .render s = .next { s with
        bcd := bcdCode s.live[p], seq := .busy 0x15000000#32 (.render .live ⟨p, .selOn s.dwell[p]⟩) })

/-- R92, R105: away from Idle, RENDER's first STEP is REFRESH, and a pass over `ovl` follows; R83: it starts at the lowest lit
position. That `seq` names the STEP that comes next is the model's reading of R38 (log entry 5). -/
def Obligations.RenderOverlayRefreshes : Prop :=
  ∀ s : State, s.ui ≠ .idle →
    ∃ t, exec .render s = .next t ∧ t = { s with ovl := t.ovl, mask := t.mask, seq := t.seq } ∧
      (s.ui = .editMinutes ∨ s.ui = .editHours →
        t.mask = 0b111100#6 ∧ t.ovl[0] = 15#4 ∧ t.ovl[1] = 15#4 ∧
        t.ovl[2].toNat = s.pend.minute.toNat % 10 ∧ t.ovl[3].toNat = s.pend.minute.toNat / 10 ∧
        t.ovl[4].toNat = s.pend.hour.toNat % 10 ∧ t.ovl[5].toNat = s.pend.hour.toNat / 10 ∧
        t.seq = .busy 0x15000000#32 (.render .ovl ⟨2, .selBcd⟩)) ∧
      (s.ui = .editYear ∨ s.ui = .editMonth ∨ s.ui = .editDay →
        t.mask = 0b111111#6 ∧ t.ovl[0].toNat = s.pend.day.toNat % 10 ∧ t.ovl[1].toNat = s.pend.day.toNat / 10 ∧
        t.ovl[2].toNat = s.pend.month.toNat % 10 ∧ t.ovl[3].toNat = s.pend.month.toNat / 10 ∧
        t.ovl[4].toNat = s.pend.year.toNat % 10 ∧ t.ovl[5].toNat = s.pend.year.toNat / 10 ∧
        t.seq = .busy 0x15000000#32 (.render .ovl ⟨0, .selBcd⟩)) ∧
      (s.ui = .showingDate →
        t.mask = 0b111111#6 ∧ t.ovl = s.ovl ∧ t.seq = .busy 0x15000000#32 (.render .ovl ⟨0, .selBcd⟩))

/-- R83: the four STEPs of a lit position, in every pass the core makes: RENDER's, DEPOISON's, those of a FAULT report, Busy
or Halted, and CAL's display passes. `withPass` moves the pass alone. After the GAP of the highest lit position RENDER's
pass ends the command; what follows the others is stated with their commands. -/
def Obligations.PassStepsDriveOnePosition : Prop :=
  ∀ (s : State) (p : Position), Alone s →
    (passOf s.seq = some ⟨p, .selBcd⟩ →
      step s = .next { s with
        bcd := bcdCode (match passSrc s.seq with | .live => s.live[p] | .ovl => s.ovl[p])
        seq := withPass s.seq ⟨p, .selOn s.dwell[p]⟩ }) ∧
    (∀ n : BitVec 16, passOf s.seq = some ⟨p, .selOn n⟩ →
      step s = .next { s with
        anode := 1#6 <<< p.val, gate := true
        seq := withPass s.seq ⟨p, if n = 0#16 then .gap else .dwell n⟩ }) ∧
    (∀ n : BitVec 16, passOf s.seq = some ⟨p, .dwell n⟩ →
      step s = .next { s with seq := withPass s.seq ⟨p, if n = 1#16 then .gap else .dwell (n - 1#16)⟩ }) ∧
    (passOf s.seq = some ⟨p, .gap⟩ →
      ∃ t, step s = .next t ∧ t.anode = 0#6 ∧ t.gate = false ∧
        t = { s with anode := t.anode, gate := t.gate, seq := t.seq } ∧
        (∀ q : Position, p < q → s.mask.getLsbD q.val = true →
          (∀ r : Position, p < r → r < q → s.mask.getLsbD r.val = false) → t.seq = withPass s.seq ⟨q, .selBcd⟩) ∧
        (∀ w src, s.seq = .busy w (.render src ⟨p, .gap⟩) → (∀ q : Position, p < q → s.mask.getLsbD q.val = false) →
          t.seq = .idle))

/-- R83, R85: with no tick, RENDER in Idle takes exactly `dwell[i] + 3` STEPs for each lit position, and ends Idle with
every anode off and the gate closed; all else is as before. The decode step and the first STEP are one step of the model
(log entry 4). -/
def Obligations.RenderEndsAfterItsDwell : Prop :=
  ∀ (s : State) (p : Position), Alone s → s.seq = .busy 0x15000000#32 .start → s.ui = .idle →
    s.mask.getLsbD p.val = true → (∀ q : Position, p < q → s.mask.getLsbD q.val = false) →
    Host.Core.run Sys2Proof.core (passLength s) s =
      .next { s with bcd := bcdCode s.live[p], anode := 0#6, gate := false, seq := .idle }

/-- R33, R84, R139: only the SEL_ON and GAP STEPs of a pass write `anode` (reset apart). -/
def Obligations.AnodeIsWrittenByPassesAlone : Prop :=
  ∀ s t : State, NoReset s → step s = .next t → t.anode ≠ s.anode →
    (∃ k n, passOf s.seq = some k ∧ k.phase = .selOn n ∧ t.anode = 1#6 <<< k.i.val) ∨
    (∃ k, passOf s.seq = some k ∧ k.phase = .gap ∧ t.anode = 0#6)

/-! ## DEPOISON (42_depoison.md) -/

/-- R94: the first STEP saves `live`, and the first burst is (5, 1, 0) unless the count is 0; a BURST STEP shows one digit
and draws at least one pass (a queued answer in range is the number drawn: log entry 2), which lights position `p` alone;
the final STEP puts `live` back and turns every position on. -/
def Obligations.DepoisonSavesBurstsAndRestores : Prop :=
  (∀ (s : State) (rep : BitVec 16),
    exec (.depoison rep) s = .next { s with
      seq := .busy (0x2000#16 ++ rep)
        (.depoison ⟨rep, s.live⟩ (if rep.toNat = 0 then .restore else .burst 5 1 0)) }) ∧
  (∀ (s : State) (w : Word) (c : DepoisonCtx) (p : Position) (r d : Nat), Alone s → d ≤ 9 →
    s.seq = .busy w (.depoison c (.burst p r d)) →
    ∃ t, step s = .next t ∧ 1 ≤ passesDraw 1 s ∧ (∀ q : Position, t.live[q].toNat = d) ∧ t.mask = 1#6 <<< p.val ∧
      t.seq = .busy w (.depoison c (.pass p r d (passesDraw 1 s) ⟨p, .selBcd⟩)) ∧ t.env = (popPasses s).env ∧
      (∀ n rest, s.env.passes = n :: rest → 1 ≤ n → passesDraw 1 s = n ∧ t.env.passes = rest) ∧
      t = { s with live := t.live, mask := t.mask, seq := t.seq, env := t.env }) ∧
  (∀ (s : State) (w : Word) (c : DepoisonCtx), Alone s → s.seq = .busy w (.depoison c .restore) →
    step s = .next { s with live := c.savedLive, mask := 0b111111#6, seq := .idle })

/-- R94, R95: the STEP at the last GAP of a burst's pass. With passes left the next one starts at the lowest lit position;
after the last pass the next burst comes, digit by digit, then repeat by repeat, then position by position downward: its
number in the count `((5 - p) * rep + (r - 1)) * 10 + d` is one more, and only after number `6 * rep * 10 - 1` does the
final STEP come (positions: log entry 5). -/
def Obligations.DepoisonRunsSixtyBurstsPerRepeat : Prop :=
  ∀ (s : State) (w : Word) (c : DepoisonCtx) (p i : Position) (r d n : Nat), Alone s →
    s.seq = .busy w (.depoison c (.pass p r d n ⟨i, .gap⟩)) → 1 ≤ r → r ≤ c.rep.toNat → d ≤ 9 →
    (∀ q : Position, i < q → s.mask.getLsbD q.val = false) →
    ∃ t k, step s = .next t ∧
      t = { s with anode := 0#6, gate := false, seq := .busy w (.depoison c k) } ∧
      (∀ q : Position, 2 ≤ n → s.mask.getLsbD q.val = true → (∀ q' : Position, q' < q → s.mask.getLsbD q'.val = false) →
        k = .pass p r d (n - 1) ⟨q, .selBcd⟩) ∧
      (n = 1 →
        (k = .restore ∧ ((5 - p.val) * c.rep.toNat + (r - 1)) * 10 + d + 1 = 6 * c.rep.toNat * 10) ∨
        ∃ (p' : Position) (r' d' : Nat), k = .burst p' r' d' ∧ 1 ≤ r' ∧ r' ≤ c.rep.toNat ∧ d' ≤ 9 ∧
          ((5 - p'.val) * c.rep.toNat + (r' - 1)) * 10 + d' = ((5 - p.val) * c.rep.toNat + (r - 1)) * 10 + d + 1)

/-- R94, R95: with no tick and no other input, DEPOISON ends, `live` is as at its first STEP, every position is on, and no
register, draft or log entry has moved; of the environment only the queue of pass counts and the draw counter have (log
entries 2, 3). -/
def Obligations.DepoisonEndsAndRestoresLive : Prop :=
  ∀ (s : State) (rep : BitVec 16), Alone s → s.seq = .busy (encode (.depoison rep)) .start →
    ∃ n t, Host.Core.run Sys2Proof.core n s = .next t ∧ t.seq = .idle ∧ t.live = s.live ∧ t.mask = 0b111111#6 ∧
      (1 ≤ rep.toNat → t.gate = false ∧ t.anode = 0#6) ∧
      t = { s with
        mask := t.mask, gate := t.gate, anode := t.anode, bcd := t.bcd, seq := .idle
        env := { s.env with passes := t.env.passes, drawn := t.env.drawn } }

/-! ## FAULT (43_fault_display.md) -/

/-- R96, R98, the first STEP, for both forms and for a code out of range. The three x digits are drawn in the order the rule
writes them, position 3 first; a queued DigitValue is the digit drawn (log entry 2). -/
def Obligations.FaultShowsThePattern : Prop :=
  ∀ (s : State) (a : BitVec 8) (blk : Bool),
    (encode (.fault a blk)).toNat = 0x21000000 + a.toNat * 2 ^ 16 + blk.toNat ∧
    (a.toNat ≤ 9 →
      ∃ t, exec (.fault a blk) s = .next t ∧ t.live[5] = 9#4 ∧ t.live[4] = 9#4 ∧ t.live[0].toNat = a.toNat ∧
        t.live[3] = digitDraw s ∧ t.live[2] = digitDraw (popDigits 1 s) ∧ t.live[1] = digitDraw (popDigits 2 s) ∧
        (∀ d3 d2 d1 rest, s.env.digits = d3 :: d2 :: d1 :: rest →
          isDigitValue d3 = true → isDigitValue d2 = true → isDigitValue d1 = true →
          t.live[3] = d3 ∧ t.live[2] = d2 ∧ t.live[1] = d1 ∧ t.env.digits = rest) ∧
        (∀ p : Position, isDigitValue t.live[p] = true) ∧
        (blk = true → t.halted = true ∧ t.seq = .halted (.mark .on 1)) ∧
        (blk = false → t.halted = s.halted ∧ t.seq = .busy (encode (.fault a false)) (.fault (.mark .on 1))) ∧
        t = { s with live := t.live, halted := t.halted, seq := t.seq, env := (popDigits 3 s).env }) ∧
    (9 < a.toNat → exec (.fault a blk) s = .next { s with err := true, seq := .idle })

/-- R97, R98, for both forms of the report (`q` is `Halted` for a blocking one, `Busy` for the other): the ON STEP of a cycle,
which lights position 0 first; the STEP that ends a pass of the ON phase, with passes left and with none, after which the
OFF STEP of the same cycle comes; the OFF STEP, which lights nothing, so that the next cycle's ON STEP follows it; what
follows the fourth cycle; and the last STEP of a non-blocking report. The pass counts are draws (log entry 2). -/
def Obligations.FaultBlinksFourCycles : Prop :=
  ∀ (s : State) (w : Word) (q : FaultPos → Seq) (j : Nat), Alone s → q = Seq.halted ∨ q = (fun k => .busy w (.fault k)) →
    (s.seq = q (.mark .on j) →
      ∃ t, step s = .next t ∧ 1 ≤ passesDraw 1 s ∧ t.mask = 0b110001#6 ∧
        t.seq = q (.pass .on j (passesDraw 1 s) ⟨0, .selBcd⟩) ∧
        (∀ n rest, s.env.passes = n :: rest → 1 ≤ n → passesDraw 1 s = n ∧ t.env.passes = rest) ∧
        t = { s with mask := t.mask, seq := t.seq, env := (popPasses s).env }) ∧
    (∀ (i : Position) (n : Nat), s.seq = q (.pass .on j n ⟨i, .gap⟩) →
      (∀ p : Position, i < p → s.mask.getLsbD p.val = false) →
      ∃ t, step s = .next t ∧ (n = 1 → t.seq = q (.mark .off j)) ∧
        (∀ p : Position, 2 ≤ n → s.mask.getLsbD p.val = true → (∀ p' : Position, p' < p → s.mask.getLsbD p'.val = false) →
          t.seq = q (.pass .on j (n - 1) ⟨p, .selBcd⟩)) ∧
        t = { s with anode := 0#6, gate := false, seq := t.seq }) ∧
    (s.seq = q (.mark .off j) →
      ∃ t, step s = .next t ∧ t.mask = 0#6 ∧
        (j < 4 → t.seq = q (.mark .on (j + 1))) ∧
        (4 ≤ j → q = Seq.halted → t.seq = .halted (.mark .on 1)) ∧
        (4 ≤ j → q = (fun k => .busy w (.fault k)) → t.seq = .busy w .faultEnd) ∧
        t = { s with mask := t.mask, seq := t.seq, env := (popPasses s).env }) ∧
    (s.seq = .busy w .faultEnd → step s = .next { s with mask := 0b110001#6, seq := .idle })

/-- R98: with no tick and no other input, a non-blocking report ends with the fault digits in `live` and the mask 0b110001,
the gate closed and every anode off, and it restores neither the frame nor the mask; of the environment only the queues of
digits and pass counts and the draw counter have moved (log entries 2, 3). -/
def Obligations.NonBlockingFaultEnds : Prop :=
  ∀ (s : State) (a : BitVec 8), Alone s → a.toNat ≤ 9 → s.seq = .busy (encode (.fault a false)) .start →
    ∃ n t, Host.Core.run Sys2Proof.core n s = .next t ∧ t.seq = .idle ∧ t.mask = 0b110001#6 ∧
      t.live[5] = 9#4 ∧ t.live[4] = 9#4 ∧ t.live[0].toNat = a.toNat ∧ t.gate = false ∧ t.anode = 0#6 ∧
      t = { s with
        live := t.live, mask := t.mask, gate := false, anode := 0#6, bcd := t.bcd, seq := .idle
        env := { s.env with passes := t.env.passes, digits := t.env.digits, drawn := t.env.drawn } }

/-! ## Set mode and date mode (44_set_mode.md) -/

/-- R101, R100, R102: the mode button in each state of `ui`. `clockDraw s` is the clock's answer, a queued
one where one in the ranges of R16 is queued (log entry 2). -/
def Obligations.BtnmodeWalksTheEditStates : Prop :=
  encode .btnmode = 0x30000000#32 ∧
  ∀ s : State,
    (s.ui = .idle →
      ∃ t, exec .btnmode s = .next t ∧ t.ui = .editMinutes ∧
        t.pend.year.toNat = (clockDraw s).year % 100 ∧ t.pend.month.toNat = (clockDraw s).month ∧
        t.pend.day.toNat = (clockDraw s).day ∧ t.pend.hour.toNat = (clockDraw s).hour ∧
        t.pend.minute.toNat = (clockDraw s).minute ∧ t.env = (popClock s).env ∧
        (∀ a rest, s.env.clocks = a :: rest → a.InRange → clockDraw s = a ∧ t.env.clocks = rest) ∧
        t = { s with pend := t.pend, ui := .editMinutes, env := t.env, seq := .idle }) ∧
    (s.ui = .editMinutes → exec .btnmode s = .next { s with ui := .editHours, seq := .idle }) ∧
    (s.ui = .editHours → exec .btnmode s = .next { s with ui := .editYear, seq := .idle }) ∧
    (s.ui = .editYear → exec .btnmode s = .next { s with ui := .editMonth, seq := .idle }) ∧
    (s.ui = .editMonth → exec .btnmode s = .next { s with ui := .editDay, seq := .idle }) ∧
    (s.ui = .editDay →
      exec .btnmode s = .next { s with
        log := s.log ++ [{ year := s.pend.year, month := s.pend.month, day := s.pend.day, hour := s.pend.hour,
                           minute := s.pend.minute, second := 0#6 }]
        sec := 60#8, mask := 0b111111#6, ui := .idle, seq := .idle }) ∧
    (s.ui = .showingDate → exec .btnmode s = .next { s with seq := .idle })

/-- R103, R100, R99, R104: the adjust button in each state of `ui`. `clockDraw s` is the clock's answer, a queued one where
one in the ranges of R16 is queued (log entry 2). -/
def Obligations.BtnadjEditsOneField : Prop :=
  encode .btnadj = 0x31000000#32 ∧
  ∀ s : State,
    (s.ui = .idle →
      ∃ t, exec .btnadj s = .next t ∧ t.ui = .showingDate ∧ t.mask = 0b111111#6 ∧
        t.ovl[0].toNat = (clockDraw s).day % 10 ∧ t.ovl[1].toNat = (clockDraw s).day / 10 ∧
        t.ovl[2].toNat = (clockDraw s).month % 10 ∧ t.ovl[3].toNat = (clockDraw s).month / 10 ∧
        t.ovl[4].toNat = (clockDraw s).year % 100 % 10 ∧ t.ovl[5].toNat = (clockDraw s).year % 100 / 10 ∧
        t.env = (popClock s).env ∧
        (∀ a rest, s.env.clocks = a :: rest → a.InRange → clockDraw s = a ∧ t.env.clocks = rest) ∧
        t = { s with ovl := t.ovl, mask := t.mask, ui := .showingDate, env := t.env, seq := .idle }) ∧
    (s.ui ≠ .idle → s.ui ≠ .showingDate →
      ∃ t, exec .btnadj s = .next t ∧ t = { s with pend := t.pend, seq := .idle } ∧
        (s.ui = .editMinutes →
          t.pend.minute.toNat = (s.pend.minute.toNat + 1) % 60 ∧ t.pend = { s.pend with minute := t.pend.minute }) ∧
        (s.ui = .editHours →
          t.pend.hour.toNat = (s.pend.hour.toNat + 1) % 24 ∧ t.pend = { s.pend with hour := t.pend.hour }) ∧
        (s.ui = .editYear →
          t.pend.year.toNat = (s.pend.year.toNat + 1) % 100 ∧ t.pend = { s.pend with year := t.pend.year }) ∧
        (s.ui = .editMonth →
          t.pend.month.toNat = (if 12 ≤ s.pend.month.toNat then 1 else s.pend.month.toNat + 1) ∧
          t.pend = { s.pend with month := t.pend.month }) ∧
        (s.ui = .editDay →
          t.pend.day.toNat =
            (if monthLen s.pend.month.toNat ≤ s.pend.day.toNat then 1 else s.pend.day.toNat + 1) ∧
          t.pend = { s.pend with day := t.pend.day })) ∧
    (s.ui = .showingDate →
      ∃ t, exec .btnadj s = .next t ∧
        t.mask.getLsbD 5 = decide (s.live[5] ≠ 0#4) ∧
        t.mask.getLsbD 4 = (decide (s.live[5] ≠ 0#4) || decide (s.live[4] ≠ 0#4)) ∧
        (∀ i, i < 4 → t.mask.getLsbD i = true) ∧
        t = { s with mask := t.mask, ui := .idle, seq := .idle })

/-- R99, R107: an edit of the day leaves it in `1..MonthLen(month)`, and February has 29 days. -/
def Obligations.DayEditStaysInTheMonth : Prop :=
  (∀ s t : State, PendOk s.pend → s.ui = .editDay → exec .btnadj s = .next t →
    1 ≤ t.pend.day.toNat ∧ t.pend.day.toNat ≤ monthLen t.pend.month.toNat ∧ PendOk t.pend) ∧
  monthLen 2 = 29 ∧ (∀ m, m ∈ [4, 6, 9, 11] → monthLen m = 30) ∧
  (∀ m, m ∈ [1, 3, 5, 7, 8, 10, 12] → monthLen m = 31)

/-- R104: on a frame SHOWTIME wrote, leaving ShowingDate gives the mask SHOWTIME would have given its hour. -/
def Obligations.LeavingDateModeRestoresTheBlanking : Prop :=
  ∀ (s : State) (h : Nat), h ≤ 23 → s.ui = .showingDate →
    s.live[5].toNat = h / 10 → s.live[4].toNat = h % 10 →
    exec .btnadj s = .next { s with mask := blankMask h, ui := .idle, seq := .idle }

/-- R106: the two buttons, and RENDER away from Idle, never write `live`; they write only `ui`, `pend`, `ovl`, `mask`,
`sec`, `log`, the position, the clock queue and the draw counter. -/
def Obligations.SetModeNeverWritesLive : Prop :=
  ∀ (s t : State) (i : Instr), i = .btnmode ∨ i = .btnadj ∨ (i = .render ∧ s.ui ≠ .idle) → exec i s = .next t →
    t.live = s.live ∧
    t = { s with
      ui := t.ui, pend := t.pend, ovl := t.ovl, mask := t.mask, sec := t.sec, log := t.log, seq := t.seq
      env := { s.env with clocks := t.env.clocks, drawn := t.env.drawn } }

/-! ## The register read (45_status.md) -/

/-- R108, R109, R40: every mapped index, and a reserved one. -/
def Obligations.RdregReadsTheMap : Prop :=
  (∀ x : BitVec 8, (encode (.rdreg x)).toNat = 0x40000000 + x.toNat * 2 ^ 16) ∧
  ∀ s : State,
    (∀ x v, (x, v) ∈
      [(0x00, (statusWord s).toNat), (0x01, s.pwmOn.toNat), (0x02, s.pwmTop.toNat), (0x03, s.target.toNat),
       (0x04, s.thr.toNat), (0x06, s.mask.toNat), (0x07, s.sec.toNat), (0x08, s.anode.toNat), (0x09, s.bcd.toNat),
       (0x0A, s.acc.toNat % 2 ^ 16), (0x0B, s.acc.toNat / 2 ^ 16), (0x28, s.pend.minute.toNat),
       (0x29, s.pend.hour.toNat), (0x2A, s.pend.year.toNat), (0x2B, s.pend.month.toNat), (0x2C, s.pend.day.toNat)] →
      ∃ t, exec (.rdreg (BitVec.ofNat 8 x)) s = .next t ∧ t.res.toNat = v ∧ t = { s with res := t.res, seq := .idle }) ∧
    (∃ t, exec (.rdreg 0x05#8) s = .next t ∧
      t.res = BitVec.ofNat 16 (if s.seeded then s.acc.toNat / 800 else 0) ∧ t = { s with res := t.res, seq := .idle }) ∧
    (∀ p : Position,
      (∃ t, exec (.rdreg (BitVec.ofNat 8 (0x10 + p.val))) s = .next t ∧ t.res.toNat = s.live[p].toNat ∧
        t = { s with res := t.res, seq := .idle }) ∧
      (∃ t, exec (.rdreg (BitVec.ofNat 8 (0x18 + p.val))) s = .next t ∧ t.res.toNat = s.ovl[p].toNat ∧
        t = { s with res := t.res, seq := .idle }) ∧
      (∃ t, exec (.rdreg (BitVec.ofNat 8 (0x20 + p.val))) s = .next t ∧ t.res = s.dwell[p] ∧
        t = { s with res := t.res, seq := .idle })) ∧
    (∀ x : BitVec 8, (Instr.rdreg x).wellFormed = false →
      exec (.rdreg x) s = .next { s with err := true, seq := .idle })

/-- R41: the fields of STATUS; the STAT port shows the same bits, and READY is `seq = Idle` (R124). -/
def Obligations.StatusHasItsFields : Prop :=
  ∀ s : State,
    (statusWord s).getLsbD 0 = s.err ∧ (statusWord s).getLsbD 1 = s.halted ∧ (statusWord s).getLsbD 2 = s.gate ∧
    ((statusWord s).extractLsb' 3 2).toNat = (match s.hvlife with | .disabled => 0 | .steady => 1 | .calibrating => 2) ∧
    ((statusWord s).extractLsb' 5 3).toNat =
      (match s.ui with
       | .idle => 0 | .editMinutes => 1 | .editHours => 2 | .editYear => 3 | .editMonth => 4 | .editDay => 5
       | .showingDate => 6) ∧
    (statusWord s).getLsbD 8 = decide (60 ≤ s.sec.toNat) ∧ (statusWord s).extractLsb' 9 7 = 0#7 ∧
    statPort s = statusWord s ∧ (ready s = true ↔ s.seq = .idle)

/-! ## The host contract (20_memory.md R45, 70_reset_and_hazards.md R128, R129; 30_encoding.md R67) -/

/-- R45: the seven bytes of the persisted layout, low byte first. -/
def Obligations.SettingsLayoutIsLittleEndian : Prop :=
  ∀ p : Settings, ∃ b0 b1 b2 b3 b4 b5 b6 : BitVec 8,
    p.byteAt 0 = some b0 ∧ p.byteAt 1 = some b1 ∧ p.byteAt 2 = some b2 ∧ p.byteAt 3 = some b3 ∧
    p.byteAt 4 = some b4 ∧ p.byteAt 5 = some b5 ∧ p.byteAt 6 = some b6 ∧
    p.pulse.toNat = b0.toNat + 256 * b1.toNat ∧ p.target = b2 ∧ p.period.toNat = b3.toNat + 256 * b4.toNat ∧
    p.calNeeded = b5 ∧ p.firstRun = b6 ∧ Settings.ofBytes b0 b1 b2 b3 b4 b5 b6 = p ∧
    (∀ h : Config.HostParams, p.cells h =
      [(h.storeBase, b0), (h.storeBase + 1, b1), (h.storeBase + 2, b2), (h.storeBase + 3, b3), (h.storeBase + 4, b4),
       (h.storeBase + 5, b5), (h.storeBase + 6, b6)])

/-- R128, R129: after steps 1 to 7 of the boot order, with no tick, no trim and the clock present, every one of the host's
moves has been taken, the gate is open and the 1 Hz signal runs, whatever the settings store held; and the state is
`BootClean` exactly when the loaded target is within its bounds, which it is unless a part's TARGET_DEFAULT is not (inputs
and steps: log entries 3, 4; BootClean: log entry 15). A host that makes these moves and no other keeps its duties for ever
(R126; log entries 22, 23). -/
def Obligations.BootReachesItsCleanState : Prop :=
  ∀ (c : Config.Params) (host : Config.HostParams) (pulse period : Option (BitVec 16)) (target : Option (BitVec 8))
    (read : Config.ClockAnswer), c.Valid → read.InRange →
    ∃ moves, moves = bootOrder c host pulse period target [] .present read false ∧
      (∀ n, KeepsDuties host n moves (hostMakes moves (State.resetOf c))) ∧
      ∃ t, Host.Core.run Sys2Proof.core 16 (hostMakes moves (State.resetOf c)) = .next t ∧
        t.env.inputs = [] ∧ t.env.tickOn = true ∧ t.gate = true ∧ t.sec.toNat = read.second ∧ t.cmdIn = none ∧
        t.target.toNat = loadTarget c target ∧
        (BootClean t ↔ Config.targetMinV ≤ loadTarget c target ∧ loadTarget c target ≤ Config.targetMaxV) ∧
        (Config.targetMinV ≤ c.targetDefault → c.targetDefault ≤ Config.targetMaxV → BootClean t)

/-- R67, R66: the five pseudo-instructions, and an operand that does not fit its field. That the line is read in capitals,
with `0b` numbers and with blanks, is the model's choice (log entry 10). -/
def Obligations.PseudoInstructionsExpand : Prop :=
  (∀ p : BitVec 8, assembleLine "BLANK" [p.toNat] = some (.wrlive p 15#4)) ∧
  assembleLine "SHOWALL" [] = some (.wrmask 0b111111#6) ∧ assembleLine "HIDEALL" [] = some (.wrmask 0#6) ∧
  assembleLine "STATUS" [] = some (.rdreg 0#8) ∧
  (∀ v : BitVec 16, assembleLine "SETFREQ" [v.toNat] = some (.settop v)) ∧
  (∀ v : Nat, 2 ^ 16 ≤ v → assembleLine "SETON" [v] = none) ∧
  assemble "WRMASK 0b110001 ; the fault mask".toList = some 0x12000031#32

/-! ## The invariants -/

/-- The invariant holds right after reset of every part that meets R10. -/
def Obligations.ResetMeetsTheInvariant : Prop := ∀ c : Config.Params, c.Valid → Inv (State.resetOf c)

/-- Every step keeps the invariant, whatever the inputs and the draws. -/
def Obligations.EveryStepKeepsTheInvariant : Prop := ∀ s t : State, Inv s → step s = .next t → Inv t

/-- R84, R33, R85: in a state that meets the invariant at most one anode is asserted; a lit position is on in the mask and
has the gate open; and with the sequencer Idle every anode is off. -/
def Obligations.AtMostOneAnodeIsLit : Prop :=
  ∀ s : State, Inv s →
    (s.anode = 0#6 ∨ ∃ p : Position, s.anode = 1#6 <<< p.val ∧ s.mask.getLsbD p.val = true ∧ s.gate = true) ∧
    (∀ p q : Position, s.anode.getLsbD p.val = true → s.anode.getLsbD q.val = true → p = q) ∧
    (s.seq = .idle → s.anode = 0#6)
end

