-- ==== Sys2Proof/Laws/Operands.lean ====
section
/-! SUPPORT. What the operand forms and the narrowings give: one lemma per operation of Machine/Operands.lean. -/

namespace Sys2Proof.Machine

/-- A DigitValue, as R15 says it. -/
theorem isDigitValue_iff (d : Digit) : isDigitValue d = true ↔ d.toNat ≤ 9 ∨ d.toNat = 15 := by
  revert d; decide

@[simp] theorem isDigitValue_blankDigit : isDigitValue blankDigit = true := by decide

/-- An in-range integer survives the narrowing to a 16-bit register. -/
theorem reg16_toNat {n : Nat} (h : n ≤ 0xFFFF) : (reg16 (n : Int)).toNat = n := by
  simp only [reg16, BitVec.ofInt_natCast, BitVec.toNat_ofNat]
  omega

/-- The clamp of natural numbers is a natural number. -/
theorem clamp_natCast (v lo hi : Nat) : clamp (v : Int) lo hi = ((min (max v lo) hi : Nat) : Int) := by
  simp only [clamp]; omega

/-- A clamp to natural bounds is a natural number between them. -/
theorem clamp_bounds (v : Int) {lo hi : Nat} (h : lo ≤ hi) :
    ∃ n : Nat, clamp v lo hi = n ∧ lo ≤ n ∧ n ≤ hi := by
  refine ⟨(clamp v lo hi).toNat, ?_, ?_, ?_⟩ <;> simp only [clamp] <;> omega

/-- A position operand within the range. -/
theorem position?_ofNat (p : Position) : position? (BitVec.ofNat 8 p.val) = some p := by
  revert p; decide

/-- A position operand out of range. -/
theorem position?_eq_none {a : BitVec 8} (h : 5 < a.toNat) : position? a = none := by
  simp only [position?]; rw [dif_neg (by omega)]

theorem position?_isSome (a : BitVec 8) : (position? a).isSome = true ↔ a.toNat ≤ 5 := by
  simp only [position?]; split <;> simp <;> omega

/-- A decimal digit keeps its value as a digit code. -/
theorem toDigit_toNat {n : Nat} (h : n ≤ 15) : (toDigit n).toNat = n := by
  simp only [toDigit, BitVec.toNat_ofNat]; omega

@[simp] theorem units_toNat (n : Nat) : (units n).toNat = n % 10 := by
  simp only [units]; exact toDigit_toNat (by omega)

theorem tens_toNat {n : Nat} (h : n ≤ 159) : (tens n).toNat = n / 10 := by
  simp only [tens]; exact toDigit_toNat (by omega)

theorem isDigitValue_units (n : Nat) : isDigitValue (units n) = true := by
  rw [isDigitValue_iff, units_toNat]; omega

theorem isDigitValue_tens {n : Nat} (h : n ≤ 99) : isDigitValue (tens n) = true := by
  rw [isDigitValue_iff, tens_toNat (by omega)]; omega

theorem isDigitValue_toDigit {n : Nat} (h : n ≤ 9) : isDigitValue (toDigit n) = true := by
  rw [isDigitValue_iff, toDigit_toNat (by omega)]; omega

/-- `1 << p` is set at `p` and nowhere else. -/
theorem bitAt_getLsbD (p q : Position) : (bitAt p).getLsbD q.val = decide (p = q) := by
  revert p q; decide

end Sys2Proof.Machine
end

