-- ==== Sys2Proof/Laws/State.lean ====
section
/-! SUPPORT. What each named update of the state leaves alone: one lemma per field, each true by unfolding the update once. -/

namespace Sys2Proof.Machine

/-! ## Moving `seq` -/

@[simp] theorem State.withSeq_cfg (s : State) (q : Seq) : (s.withSeq q).cfg = s.cfg := rfl
@[simp] theorem State.withSeq_res (s : State) (q : Seq) : (s.withSeq q).res = s.res := rfl
@[simp] theorem State.withSeq_seq (s : State) (q : Seq) : (s.withSeq q).seq = q := rfl
@[simp] theorem State.withSeq_err (s : State) (q : Seq) : (s.withSeq q).err = s.err := rfl
@[simp] theorem State.withSeq_halted (s : State) (q : Seq) : (s.withSeq q).halted = s.halted := rfl
@[simp] theorem State.withSeq_pwmOn (s : State) (q : Seq) : (s.withSeq q).pwmOn = s.pwmOn := rfl
@[simp] theorem State.withSeq_pwmTop (s : State) (q : Seq) : (s.withSeq q).pwmTop = s.pwmTop := rfl
@[simp] theorem State.withSeq_target (s : State) (q : Seq) : (s.withSeq q).target = s.target := rfl
@[simp] theorem State.withSeq_thr (s : State) (q : Seq) : (s.withSeq q).thr = s.thr := rfl
@[simp] theorem State.withSeq_acc (s : State) (q : Seq) : (s.withSeq q).acc = s.acc := rfl
@[simp] theorem State.withSeq_seeded (s : State) (q : Seq) : (s.withSeq q).seeded = s.seeded := rfl
@[simp] theorem State.withSeq_gate (s : State) (q : Seq) : (s.withSeq q).gate = s.gate := rfl
@[simp] theorem State.withSeq_hvlife (s : State) (q : Seq) : (s.withSeq q).hvlife = s.hvlife := rfl
@[simp] theorem State.withSeq_live (s : State) (q : Seq) : (s.withSeq q).live = s.live := rfl
@[simp] theorem State.withSeq_ovl (s : State) (q : Seq) : (s.withSeq q).ovl = s.ovl := rfl
@[simp] theorem State.withSeq_mask (s : State) (q : Seq) : (s.withSeq q).mask = s.mask := rfl
@[simp] theorem State.withSeq_dwell (s : State) (q : Seq) : (s.withSeq q).dwell = s.dwell := rfl
@[simp] theorem State.withSeq_anode (s : State) (q : Seq) : (s.withSeq q).anode = s.anode := rfl
@[simp] theorem State.withSeq_bcd (s : State) (q : Seq) : (s.withSeq q).bcd = s.bcd := rfl
@[simp] theorem State.withSeq_ui (s : State) (q : Seq) : (s.withSeq q).ui = s.ui := rfl
@[simp] theorem State.withSeq_pend (s : State) (q : Seq) : (s.withSeq q).pend = s.pend := rfl
@[simp] theorem State.withSeq_sec (s : State) (q : Seq) : (s.withSeq q).sec = s.sec := rfl
@[simp] theorem State.withSeq_log (s : State) (q : Seq) : (s.withSeq q).log = s.log := rfl
@[simp] theorem State.withSeq_cmdIn (s : State) (q : Seq) : (s.withSeq q).cmdIn = s.cmdIn := rfl
@[simp] theorem State.withSeq_tickPending (s : State) (q : Seq) : (s.withSeq q).tickPending = s.tickPending := rfl
@[simp] theorem State.withSeq_env (s : State) (q : Seq) : (s.withSeq q).env = s.env := rfl

@[simp] theorem State.finish_eq (s : State) : s.finish = s.withSeq .idle := rfl
@[simp] theorem State.goTo_eq (s : State) (w : Word) (k : Pos) : s.goTo w k = s.withSeq (.busy w k) := rfl
@[simp] theorem State.withSeq_withSeq (s : State) (q r : Seq) : (s.withSeq q).withSeq r = s.withSeq r := rfl

/-! ## The environment -/

@[simp] theorem State.withEnv_cfg (s : State) (e : Env) : (s.withEnv e).cfg = s.cfg := rfl
@[simp] theorem State.withEnv_res (s : State) (e : Env) : (s.withEnv e).res = s.res := rfl
@[simp] theorem State.withEnv_seq (s : State) (e : Env) : (s.withEnv e).seq = s.seq := rfl
@[simp] theorem State.withEnv_err (s : State) (e : Env) : (s.withEnv e).err = s.err := rfl
@[simp] theorem State.withEnv_halted (s : State) (e : Env) : (s.withEnv e).halted = s.halted := rfl
@[simp] theorem State.withEnv_pwmOn (s : State) (e : Env) : (s.withEnv e).pwmOn = s.pwmOn := rfl
@[simp] theorem State.withEnv_pwmTop (s : State) (e : Env) : (s.withEnv e).pwmTop = s.pwmTop := rfl
@[simp] theorem State.withEnv_target (s : State) (e : Env) : (s.withEnv e).target = s.target := rfl
@[simp] theorem State.withEnv_thr (s : State) (e : Env) : (s.withEnv e).thr = s.thr := rfl
@[simp] theorem State.withEnv_acc (s : State) (e : Env) : (s.withEnv e).acc = s.acc := rfl
@[simp] theorem State.withEnv_seeded (s : State) (e : Env) : (s.withEnv e).seeded = s.seeded := rfl
@[simp] theorem State.withEnv_gate (s : State) (e : Env) : (s.withEnv e).gate = s.gate := rfl
@[simp] theorem State.withEnv_hvlife (s : State) (e : Env) : (s.withEnv e).hvlife = s.hvlife := rfl
@[simp] theorem State.withEnv_live (s : State) (e : Env) : (s.withEnv e).live = s.live := rfl
@[simp] theorem State.withEnv_ovl (s : State) (e : Env) : (s.withEnv e).ovl = s.ovl := rfl
@[simp] theorem State.withEnv_mask (s : State) (e : Env) : (s.withEnv e).mask = s.mask := rfl
@[simp] theorem State.withEnv_dwell (s : State) (e : Env) : (s.withEnv e).dwell = s.dwell := rfl
@[simp] theorem State.withEnv_anode (s : State) (e : Env) : (s.withEnv e).anode = s.anode := rfl
@[simp] theorem State.withEnv_bcd (s : State) (e : Env) : (s.withEnv e).bcd = s.bcd := rfl
@[simp] theorem State.withEnv_ui (s : State) (e : Env) : (s.withEnv e).ui = s.ui := rfl
@[simp] theorem State.withEnv_pend (s : State) (e : Env) : (s.withEnv e).pend = s.pend := rfl
@[simp] theorem State.withEnv_sec (s : State) (e : Env) : (s.withEnv e).sec = s.sec := rfl
@[simp] theorem State.withEnv_log (s : State) (e : Env) : (s.withEnv e).log = s.log := rfl
@[simp] theorem State.withEnv_cmdIn (s : State) (e : Env) : (s.withEnv e).cmdIn = s.cmdIn := rfl
@[simp] theorem State.withEnv_tickPending (s : State) (e : Env) : (s.withEnv e).tickPending = s.tickPending := rfl
@[simp] theorem State.withEnv_env (s : State) (e : Env) : (s.withEnv e).env = e := rfl

@[simp] theorem popAdc_eq (s : State) :
    popAdc s = s.withEnv { s.env with adc := s.env.adc.tail, drawn := s.env.bump s.env.adc } := rfl
@[simp] theorem popPasses_eq (s : State) :
    popPasses s = s.withEnv { s.env with passes := s.env.passes.tail, drawn := s.env.bump s.env.passes } := rfl
@[simp] theorem popDigit_eq (s : State) :
    popDigit s = s.withEnv { s.env with digits := s.env.digits.tail, drawn := s.env.bump s.env.digits } := rfl
@[simp] theorem popMask_eq (s : State) :
    popMask s = s.withEnv { s.env with masks := s.env.masks.tail, drawn := s.env.bump s.env.masks } := rfl
@[simp] theorem popClock_eq (s : State) :
    popClock s = s.withEnv { s.env with clocks := s.env.clocks.tail, drawn := s.env.bump s.env.clocks } := rfl
@[simp] theorem State.dropInput_eq (s : State) : s.dropInput = s.withEnv s.env.advance := rfl
@[simp] theorem tickStarts_eq (s : State) : tickStarts s = s.withEnv { s.env with tickOn := true } := rfl
@[simp] theorem State.withEnv_withEnv (s : State) (e f : Env) : (s.withEnv e).withEnv f = s.withEnv f := rfl
@[simp] theorem State.withEnv_self (s : State) : s.withEnv s.env = s := rfl

@[simp] theorem Env.advance_onward (e : Env) : e.advance.onward = e.onward := by
  simp only [Env.advance]; split <;> rfl
@[simp] theorem Env.advance_tickOn (e : Env) : e.advance.tickOn = e.tickOn := by
  simp only [Env.advance]; split <;> rfl
@[simp] theorem Env.advance_adc (e : Env) : e.advance.adc = e.adc := by
  simp only [Env.advance]; split <;> rfl
@[simp] theorem Env.advance_passes (e : Env) : e.advance.passes = e.passes := by
  simp only [Env.advance]; split <;> rfl
@[simp] theorem Env.advance_digits (e : Env) : e.advance.digits = e.digits := by
  simp only [Env.advance]; split <;> rfl
@[simp] theorem Env.advance_masks (e : Env) : e.advance.masks = e.masks := by
  simp only [Env.advance]; split <;> rfl
@[simp] theorem Env.advance_clocks (e : Env) : e.advance.clocks = e.clocks := by
  simp only [Env.advance]; split <;> rfl
@[simp] theorem Env.advance_drawn (e : Env) : e.advance.drawn = e.drawn := by
  simp only [Env.advance]; split <;> rfl

/-- The listed inputs come in their order. -/
theorem Env.upcoming_cons {e : Env} {i : Config.Input} {rest : List Config.Input} (h : e.inputs = i :: rest) :
    e.upcoming = some i ∧ e.advance = { e with inputs := rest } := by
  simp only [Env.upcoming, Env.advance, h, and_self]

/-- With none listed, nothing comes, or the free inputs do. -/
theorem Env.upcoming_nil {e : Env} (h : e.inputs = []) :
    (e.onward = .quiet → e.upcoming = none) ∧
    (e.onward = .free → e.upcoming = some (Config.freeInput e.arrived) ∧ e.advance = { e with arrived := e.arrived + 1 }) := by
  simp +contextual only [Env.upcoming, Env.advance, h, implies_true, and_self]

/-- The host may move exactly when READY is 1 and the CMD port is free. -/
theorem hostMayMove_iff (s : State) : hostMayMove s = true ↔ s.seq = .idle ∧ s.cmdIn = none := by
  simp only [hostMayMove, Bool.and_eq_true, decide_eq_true_eq, Option.isNone_iff_eq_none]

@[simp] theorem edgeArrives_cfg (s : State) : (edgeArrives s).cfg = s.cfg := by
  simp only [edgeArrives]; split <;> rfl
@[simp] theorem edgeArrives_res (s : State) : (edgeArrives s).res = s.res := by
  simp only [edgeArrives]; split <;> rfl
@[simp] theorem edgeArrives_seq (s : State) : (edgeArrives s).seq = s.seq := by
  simp only [edgeArrives]; split <;> rfl
@[simp] theorem edgeArrives_err (s : State) : (edgeArrives s).err = s.err := by
  simp only [edgeArrives]; split <;> rfl
@[simp] theorem edgeArrives_halted (s : State) : (edgeArrives s).halted = s.halted := by
  simp only [edgeArrives]; split <;> rfl
@[simp] theorem edgeArrives_pwmOn (s : State) : (edgeArrives s).pwmOn = s.pwmOn := by
  simp only [edgeArrives]; split <;> rfl
@[simp] theorem edgeArrives_pwmTop (s : State) : (edgeArrives s).pwmTop = s.pwmTop := by
  simp only [edgeArrives]; split <;> rfl
@[simp] theorem edgeArrives_target (s : State) : (edgeArrives s).target = s.target := by
  simp only [edgeArrives]; split <;> rfl
@[simp] theorem edgeArrives_thr (s : State) : (edgeArrives s).thr = s.thr := by
  simp only [edgeArrives]; split <;> rfl
@[simp] theorem edgeArrives_acc (s : State) : (edgeArrives s).acc = s.acc := by
  simp only [edgeArrives]; split <;> rfl
@[simp] theorem edgeArrives_seeded (s : State) : (edgeArrives s).seeded = s.seeded := by
  simp only [edgeArrives]; split <;> rfl
@[simp] theorem edgeArrives_gate (s : State) : (edgeArrives s).gate = s.gate := by
  simp only [edgeArrives]; split <;> rfl
@[simp] theorem edgeArrives_hvlife (s : State) : (edgeArrives s).hvlife = s.hvlife := by
  simp only [edgeArrives]; split <;> rfl
@[simp] theorem edgeArrives_live (s : State) : (edgeArrives s).live = s.live := by
  simp only [edgeArrives]; split <;> rfl
@[simp] theorem edgeArrives_ovl (s : State) : (edgeArrives s).ovl = s.ovl := by
  simp only [edgeArrives]; split <;> rfl
@[simp] theorem edgeArrives_mask (s : State) : (edgeArrives s).mask = s.mask := by
  simp only [edgeArrives]; split <;> rfl
@[simp] theorem edgeArrives_dwell (s : State) : (edgeArrives s).dwell = s.dwell := by
  simp only [edgeArrives]; split <;> rfl
@[simp] theorem edgeArrives_anode (s : State) : (edgeArrives s).anode = s.anode := by
  simp only [edgeArrives]; split <;> rfl
@[simp] theorem edgeArrives_bcd (s : State) : (edgeArrives s).bcd = s.bcd := by
  simp only [edgeArrives]; split <;> rfl
@[simp] theorem edgeArrives_ui (s : State) : (edgeArrives s).ui = s.ui := by
  simp only [edgeArrives]; split <;> rfl
@[simp] theorem edgeArrives_pend (s : State) : (edgeArrives s).pend = s.pend := by
  simp only [edgeArrives]; split <;> rfl
@[simp] theorem edgeArrives_sec (s : State) : (edgeArrives s).sec = s.sec := by
  simp only [edgeArrives]; split <;> rfl
@[simp] theorem edgeArrives_log (s : State) : (edgeArrives s).log = s.log := by
  simp only [edgeArrives]; split <;> rfl
@[simp] theorem edgeArrives_cmdIn (s : State) : (edgeArrives s).cmdIn = s.cmdIn := by
  simp only [edgeArrives]; split <;> rfl
@[simp] theorem edgeArrives_tickPending (s : State) : (edgeArrives s).tickPending = if s.env.tickOn then s.tickPending + 1 else s.tickPending := by
  simp only [edgeArrives]; split <;> rfl
@[simp] theorem edgeArrives_env (s : State) : (edgeArrives s).env = s.env := by
  simp only [edgeArrives]; split <;> rfl

/-! ## The regulator's registers -/

@[simp] theorem setPulseWidth_cfg (v : Int) (s : State) : (setPulseWidth v s).cfg = s.cfg := rfl
@[simp] theorem setPulseWidth_res (v : Int) (s : State) : (setPulseWidth v s).res = s.res := rfl
@[simp] theorem setPulseWidth_seq (v : Int) (s : State) : (setPulseWidth v s).seq = s.seq := rfl
@[simp] theorem setPulseWidth_err (v : Int) (s : State) : (setPulseWidth v s).err = s.err := rfl
@[simp] theorem setPulseWidth_halted (v : Int) (s : State) : (setPulseWidth v s).halted = s.halted := rfl
@[simp] theorem setPulseWidth_pwmOn (v : Int) (s : State) : (setPulseWidth v s).pwmOn = reg16 (clamp v s.cfg.pulseMin s.cfg.pulseMax) := rfl
@[simp] theorem setPulseWidth_target (v : Int) (s : State) : (setPulseWidth v s).target = s.target := rfl
@[simp] theorem setPulseWidth_thr (v : Int) (s : State) : (setPulseWidth v s).thr = s.thr := rfl
@[simp] theorem setPulseWidth_acc (v : Int) (s : State) : (setPulseWidth v s).acc = s.acc := rfl
@[simp] theorem setPulseWidth_seeded (v : Int) (s : State) : (setPulseWidth v s).seeded = s.seeded := rfl
@[simp] theorem setPulseWidth_gate (v : Int) (s : State) : (setPulseWidth v s).gate = s.gate := rfl
@[simp] theorem setPulseWidth_hvlife (v : Int) (s : State) : (setPulseWidth v s).hvlife = s.hvlife := rfl
@[simp] theorem setPulseWidth_live (v : Int) (s : State) : (setPulseWidth v s).live = s.live := rfl
@[simp] theorem setPulseWidth_ovl (v : Int) (s : State) : (setPulseWidth v s).ovl = s.ovl := rfl
@[simp] theorem setPulseWidth_mask (v : Int) (s : State) : (setPulseWidth v s).mask = s.mask := rfl
@[simp] theorem setPulseWidth_dwell (v : Int) (s : State) : (setPulseWidth v s).dwell = s.dwell := rfl
@[simp] theorem setPulseWidth_anode (v : Int) (s : State) : (setPulseWidth v s).anode = s.anode := rfl
@[simp] theorem setPulseWidth_bcd (v : Int) (s : State) : (setPulseWidth v s).bcd = s.bcd := rfl
@[simp] theorem setPulseWidth_ui (v : Int) (s : State) : (setPulseWidth v s).ui = s.ui := rfl
@[simp] theorem setPulseWidth_pend (v : Int) (s : State) : (setPulseWidth v s).pend = s.pend := rfl
@[simp] theorem setPulseWidth_sec (v : Int) (s : State) : (setPulseWidth v s).sec = s.sec := rfl
@[simp] theorem setPulseWidth_log (v : Int) (s : State) : (setPulseWidth v s).log = s.log := rfl
@[simp] theorem setPulseWidth_cmdIn (v : Int) (s : State) : (setPulseWidth v s).cmdIn = s.cmdIn := rfl
@[simp] theorem setPulseWidth_tickPending (v : Int) (s : State) : (setPulseWidth v s).tickPending = s.tickPending := rfl
@[simp] theorem setPulseWidth_env (v : Int) (s : State) : (setPulseWidth v s).env = s.env := rfl

@[simp] theorem setPeriod_cfg (v : Int) (s : State) : (setPeriod v s).cfg = s.cfg := rfl
@[simp] theorem setPeriod_res (v : Int) (s : State) : (setPeriod v s).res = s.res := rfl
@[simp] theorem setPeriod_seq (v : Int) (s : State) : (setPeriod v s).seq = s.seq := rfl
@[simp] theorem setPeriod_err (v : Int) (s : State) : (setPeriod v s).err = s.err := rfl
@[simp] theorem setPeriod_halted (v : Int) (s : State) : (setPeriod v s).halted = s.halted := rfl
@[simp] theorem setPeriod_pwmOn (v : Int) (s : State) : (setPeriod v s).pwmOn = s.pwmOn := rfl
@[simp] theorem setPeriod_pwmTop (v : Int) (s : State) : (setPeriod v s).pwmTop = 
    reg16 (max (clamp v s.cfg.topMin s.cfg.topMax) (s.pwmOn.toNat + s.cfg.margin)) := rfl
@[simp] theorem setPeriod_target (v : Int) (s : State) : (setPeriod v s).target = s.target := rfl
@[simp] theorem setPeriod_thr (v : Int) (s : State) : (setPeriod v s).thr = s.thr := rfl
@[simp] theorem setPeriod_acc (v : Int) (s : State) : (setPeriod v s).acc = s.acc := rfl
@[simp] theorem setPeriod_seeded (v : Int) (s : State) : (setPeriod v s).seeded = s.seeded := rfl
@[simp] theorem setPeriod_gate (v : Int) (s : State) : (setPeriod v s).gate = s.gate := rfl
@[simp] theorem setPeriod_hvlife (v : Int) (s : State) : (setPeriod v s).hvlife = s.hvlife := rfl
@[simp] theorem setPeriod_live (v : Int) (s : State) : (setPeriod v s).live = s.live := rfl
@[simp] theorem setPeriod_ovl (v : Int) (s : State) : (setPeriod v s).ovl = s.ovl := rfl
@[simp] theorem setPeriod_mask (v : Int) (s : State) : (setPeriod v s).mask = s.mask := rfl
@[simp] theorem setPeriod_dwell (v : Int) (s : State) : (setPeriod v s).dwell = s.dwell := rfl
@[simp] theorem setPeriod_anode (v : Int) (s : State) : (setPeriod v s).anode = s.anode := rfl
@[simp] theorem setPeriod_bcd (v : Int) (s : State) : (setPeriod v s).bcd = s.bcd := rfl
@[simp] theorem setPeriod_ui (v : Int) (s : State) : (setPeriod v s).ui = s.ui := rfl
@[simp] theorem setPeriod_pend (v : Int) (s : State) : (setPeriod v s).pend = s.pend := rfl
@[simp] theorem setPeriod_sec (v : Int) (s : State) : (setPeriod v s).sec = s.sec := rfl
@[simp] theorem setPeriod_log (v : Int) (s : State) : (setPeriod v s).log = s.log := rfl
@[simp] theorem setPeriod_cmdIn (v : Int) (s : State) : (setPeriod v s).cmdIn = s.cmdIn := rfl
@[simp] theorem setPeriod_tickPending (v : Int) (s : State) : (setPeriod v s).tickPending = s.tickPending := rfl
@[simp] theorem setPeriod_env (v : Int) (s : State) : (setPeriod v s).env = s.env := rfl

@[simp] theorem sampleSmoothed_cfg (s : State) : (sampleSmoothed s).cfg = s.cfg := rfl
@[simp] theorem sampleSmoothed_res (s : State) : (sampleSmoothed s).res = s.res := rfl
@[simp] theorem sampleSmoothed_seq (s : State) : (sampleSmoothed s).seq = s.seq := rfl
@[simp] theorem sampleSmoothed_err (s : State) : (sampleSmoothed s).err = s.err := rfl
@[simp] theorem sampleSmoothed_halted (s : State) : (sampleSmoothed s).halted = s.halted := rfl
@[simp] theorem sampleSmoothed_pwmOn (s : State) : (sampleSmoothed s).pwmOn = s.pwmOn := rfl
@[simp] theorem sampleSmoothed_pwmTop (s : State) : (sampleSmoothed s).pwmTop = s.pwmTop := rfl
@[simp] theorem sampleSmoothed_target (s : State) : (sampleSmoothed s).target = s.target := rfl
@[simp] theorem sampleSmoothed_thr (s : State) : (sampleSmoothed s).thr = s.thr := rfl
@[simp] theorem sampleSmoothed_acc (s : State) : (sampleSmoothed s).acc = BitVec.ofNat 32 (nextAcc s (adcDraw s)) := rfl
@[simp] theorem sampleSmoothed_seeded (s : State) : (sampleSmoothed s).seeded = true := rfl
@[simp] theorem sampleSmoothed_gate (s : State) : (sampleSmoothed s).gate = s.gate := rfl
@[simp] theorem sampleSmoothed_hvlife (s : State) : (sampleSmoothed s).hvlife = s.hvlife := rfl
@[simp] theorem sampleSmoothed_live (s : State) : (sampleSmoothed s).live = s.live := rfl
@[simp] theorem sampleSmoothed_ovl (s : State) : (sampleSmoothed s).ovl = s.ovl := rfl
@[simp] theorem sampleSmoothed_mask (s : State) : (sampleSmoothed s).mask = s.mask := rfl
@[simp] theorem sampleSmoothed_dwell (s : State) : (sampleSmoothed s).dwell = s.dwell := rfl
@[simp] theorem sampleSmoothed_anode (s : State) : (sampleSmoothed s).anode = s.anode := rfl
@[simp] theorem sampleSmoothed_bcd (s : State) : (sampleSmoothed s).bcd = s.bcd := rfl
@[simp] theorem sampleSmoothed_ui (s : State) : (sampleSmoothed s).ui = s.ui := rfl
@[simp] theorem sampleSmoothed_pend (s : State) : (sampleSmoothed s).pend = s.pend := rfl
@[simp] theorem sampleSmoothed_sec (s : State) : (sampleSmoothed s).sec = s.sec := rfl
@[simp] theorem sampleSmoothed_log (s : State) : (sampleSmoothed s).log = s.log := rfl
@[simp] theorem sampleSmoothed_cmdIn (s : State) : (sampleSmoothed s).cmdIn = s.cmdIn := rfl
@[simp] theorem sampleSmoothed_tickPending (s : State) : (sampleSmoothed s).tickPending = s.tickPending := rfl
@[simp] theorem sampleSmoothed_env (s : State) : (sampleSmoothed s).env = (popAdc s).env := rfl

@[simp] theorem regCore_cfg (t : Nat) (s : State) : (regCore t s).cfg = s.cfg := by
  simp only [regCore]; split <;> rfl
@[simp] theorem regCore_res (t : Nat) (s : State) : (regCore t s).res = s.res := by
  simp only [regCore]; split <;> rfl
@[simp] theorem regCore_seq (t : Nat) (s : State) : (regCore t s).seq = s.seq := by
  simp only [regCore]; split <;> rfl
@[simp] theorem regCore_err (t : Nat) (s : State) : (regCore t s).err = s.err := by
  simp only [regCore]; split <;> rfl
@[simp] theorem regCore_halted (t : Nat) (s : State) : (regCore t s).halted = s.halted := by
  simp only [regCore]; split <;> rfl
@[simp] theorem regCore_pwmOn (t : Nat) (s : State) : (regCore t s).pwmOn = s.pwmOn := by
  simp only [regCore]; split <;> rfl
@[simp] theorem regCore_target (t : Nat) (s : State) : (regCore t s).target = s.target := by
  simp only [regCore]; split <;> rfl
@[simp] theorem regCore_thr (t : Nat) (s : State) : (regCore t s).thr = s.thr := by
  simp only [regCore]; split <;> rfl
@[simp] theorem regCore_acc (t : Nat) (s : State) : (regCore t s).acc = (sampleSmoothed s).acc := by
  simp only [regCore]; split <;> rfl
@[simp] theorem regCore_seeded (t : Nat) (s : State) : (regCore t s).seeded = true := by
  simp only [regCore]; split <;> rfl
@[simp] theorem regCore_gate (t : Nat) (s : State) : (regCore t s).gate = s.gate := by
  simp only [regCore]; split <;> rfl
@[simp] theorem regCore_hvlife (t : Nat) (s : State) : (regCore t s).hvlife = s.hvlife := by
  simp only [regCore]; split <;> rfl
@[simp] theorem regCore_live (t : Nat) (s : State) : (regCore t s).live = s.live := by
  simp only [regCore]; split <;> rfl
@[simp] theorem regCore_ovl (t : Nat) (s : State) : (regCore t s).ovl = s.ovl := by
  simp only [regCore]; split <;> rfl
@[simp] theorem regCore_mask (t : Nat) (s : State) : (regCore t s).mask = s.mask := by
  simp only [regCore]; split <;> rfl
@[simp] theorem regCore_dwell (t : Nat) (s : State) : (regCore t s).dwell = s.dwell := by
  simp only [regCore]; split <;> rfl
@[simp] theorem regCore_anode (t : Nat) (s : State) : (regCore t s).anode = s.anode := by
  simp only [regCore]; split <;> rfl
@[simp] theorem regCore_bcd (t : Nat) (s : State) : (regCore t s).bcd = s.bcd := by
  simp only [regCore]; split <;> rfl
@[simp] theorem regCore_ui (t : Nat) (s : State) : (regCore t s).ui = s.ui := by
  simp only [regCore]; split <;> rfl
@[simp] theorem regCore_pend (t : Nat) (s : State) : (regCore t s).pend = s.pend := by
  simp only [regCore]; split <;> rfl
@[simp] theorem regCore_sec (t : Nat) (s : State) : (regCore t s).sec = s.sec := by
  simp only [regCore]; split <;> rfl
@[simp] theorem regCore_log (t : Nat) (s : State) : (regCore t s).log = s.log := by
  simp only [regCore]; split <;> rfl
@[simp] theorem regCore_cmdIn (t : Nat) (s : State) : (regCore t s).cmdIn = s.cmdIn := by
  simp only [regCore]; split <;> rfl
@[simp] theorem regCore_tickPending (t : Nat) (s : State) : (regCore t s).tickPending = s.tickPending := by
  simp only [regCore]; split <;> rfl
@[simp] theorem regCore_env (t : Nat) (s : State) : (regCore t s).env = (popAdc s).env := by
  simp only [regCore]; split <;> rfl

/-! ## The outputs -/

@[simp] theorem passStep_cfg (src : FrameSrc) (k : PassPos) (s : State) : (passStep src k s).cfg = s.cfg := by
  simp only [passStep]; split <;> rfl
@[simp] theorem passStep_res (src : FrameSrc) (k : PassPos) (s : State) : (passStep src k s).res = s.res := by
  simp only [passStep]; split <;> rfl
@[simp] theorem passStep_seq (src : FrameSrc) (k : PassPos) (s : State) : (passStep src k s).seq = s.seq := by
  simp only [passStep]; split <;> rfl
@[simp] theorem passStep_err (src : FrameSrc) (k : PassPos) (s : State) : (passStep src k s).err = s.err := by
  simp only [passStep]; split <;> rfl
@[simp] theorem passStep_halted (src : FrameSrc) (k : PassPos) (s : State) : (passStep src k s).halted = s.halted := by
  simp only [passStep]; split <;> rfl
@[simp] theorem passStep_pwmOn (src : FrameSrc) (k : PassPos) (s : State) : (passStep src k s).pwmOn = s.pwmOn := by
  simp only [passStep]; split <;> rfl
@[simp] theorem passStep_pwmTop (src : FrameSrc) (k : PassPos) (s : State) : (passStep src k s).pwmTop = s.pwmTop := by
  simp only [passStep]; split <;> rfl
@[simp] theorem passStep_target (src : FrameSrc) (k : PassPos) (s : State) : (passStep src k s).target = s.target := by
  simp only [passStep]; split <;> rfl
@[simp] theorem passStep_thr (src : FrameSrc) (k : PassPos) (s : State) : (passStep src k s).thr = s.thr := by
  simp only [passStep]; split <;> rfl
@[simp] theorem passStep_acc (src : FrameSrc) (k : PassPos) (s : State) : (passStep src k s).acc = s.acc := by
  simp only [passStep]; split <;> rfl
@[simp] theorem passStep_seeded (src : FrameSrc) (k : PassPos) (s : State) : (passStep src k s).seeded = s.seeded := by
  simp only [passStep]; split <;> rfl
@[simp] theorem passStep_hvlife (src : FrameSrc) (k : PassPos) (s : State) : (passStep src k s).hvlife = s.hvlife := by
  simp only [passStep]; split <;> rfl
@[simp] theorem passStep_live (src : FrameSrc) (k : PassPos) (s : State) : (passStep src k s).live = s.live := by
  simp only [passStep]; split <;> rfl
@[simp] theorem passStep_ovl (src : FrameSrc) (k : PassPos) (s : State) : (passStep src k s).ovl = s.ovl := by
  simp only [passStep]; split <;> rfl
@[simp] theorem passStep_mask (src : FrameSrc) (k : PassPos) (s : State) : (passStep src k s).mask = s.mask := by
  simp only [passStep]; split <;> rfl
@[simp] theorem passStep_dwell (src : FrameSrc) (k : PassPos) (s : State) : (passStep src k s).dwell = s.dwell := by
  simp only [passStep]; split <;> rfl
@[simp] theorem passStep_ui (src : FrameSrc) (k : PassPos) (s : State) : (passStep src k s).ui = s.ui := by
  simp only [passStep]; split <;> rfl
@[simp] theorem passStep_pend (src : FrameSrc) (k : PassPos) (s : State) : (passStep src k s).pend = s.pend := by
  simp only [passStep]; split <;> rfl
@[simp] theorem passStep_sec (src : FrameSrc) (k : PassPos) (s : State) : (passStep src k s).sec = s.sec := by
  simp only [passStep]; split <;> rfl
@[simp] theorem passStep_log (src : FrameSrc) (k : PassPos) (s : State) : (passStep src k s).log = s.log := by
  simp only [passStep]; split <;> rfl
@[simp] theorem passStep_cmdIn (src : FrameSrc) (k : PassPos) (s : State) : (passStep src k s).cmdIn = s.cmdIn := by
  simp only [passStep]; split <;> rfl
@[simp] theorem passStep_tickPending (src : FrameSrc) (k : PassPos) (s : State) : (passStep src k s).tickPending = s.tickPending := by
  simp only [passStep]; split <;> rfl
@[simp] theorem passStep_env (src : FrameSrc) (k : PassPos) (s : State) : (passStep src k s).env = s.env := by
  simp only [passStep]; split <;> rfl

end Sys2Proof.Machine
end

