-- ==== Sys2Proof/Laws/Ops.lean ====
section
/-! SUPPORT. One lemma for each shared operation that says once what it can do: the draws stay in R16's ranges, the clamps
keep R24, the average keeps R27's bound, a pass starts at a lit position. -/

namespace Sys2Proof.Machine

open Sys2Proof.Safety

/-! ## Draws (R16) -/

theorem adcDraw_le (s : State) : adcDraw s ≤ 2 ^ s.cfg.adcBits - 1 := by
  have h := Nat.mod_lt (s.env.front s.env.adc Config.freeAdc) (Nat.two_pow_pos s.cfg.adcBits)
  simp only [adcDraw]; omega

/-- A queued raw sample in range is the sample drawn. -/
theorem adcDraw_queued {s : State} {r : Nat} {rest : List Nat} (hq : s.env.adc = r :: rest)
    (hr : r ≤ 2 ^ s.cfg.adcBits - 1) : adcDraw s = r ∧ (popAdc s).env.adc = rest := by
  have := Nat.two_pow_pos s.cfg.adcBits
  constructor
  · simp only [adcDraw, hq, Env.front]; exact Nat.mod_eq_of_lt (by omega)
  · simp [hq]

theorem le_passesDraw (n : Nat) (s : State) : n ≤ passesDraw n s := Nat.le_max_left ..

theorem isDigitValue_digitDraw (s : State) : isDigitValue (digitDraw s) = true := by
  simp only [digitDraw]; split
  · assumption
  · exact isDigitValue_blankDigit

/-- A queued pass count of at least `n` is the count drawn. -/
theorem passesDraw_queued {n r : Nat} {s : State} {rest : List Nat} (hq : s.env.passes = r :: rest) (hr : n ≤ r) :
    passesDraw n s = r ∧ (popPasses s).env.passes = rest := by
  simp only [passesDraw, hq, Env.front, popPasses_eq, State.withEnv_env, List.tail_cons, and_true]; omega

/-- A queued DigitValue is the digit drawn. -/
theorem digitDraw_queued {s : State} {d : Digit} {rest : List Digit} (hq : s.env.digits = d :: rest)
    (hd : isDigitValue d = true) : digitDraw s = d ∧ (popDigit s).env.digits = rest := by
  simp [digitDraw, hq, Env.front, hd]

/-- A queued mask is the mask drawn. -/
theorem maskDraw_queued {s : State} {m : Mask} {rest : List Mask} (hq : s.env.masks = m :: rest) :
    maskDraw s = m ∧ (popMask s).env.masks = rest := by
  simp [maskDraw, hq, Env.front]

/-- A draw of a digit reads the environment alone. -/
theorem digitDraw_congr {s t : State} (h : s.env = t.env) : digitDraw s = digitDraw t := by
  simp only [digitDraw, h]

theorem popDigits_frame (n : Nat) (s : State) : popDigits n s = s.withEnv (popDigits n s).env := by
  induction n with
  | zero => rfl
  | succ n ih => simp only [popDigits]; rw [ih]; rfl

theorem clockDraw_inRange (s : State) : (clockDraw s).InRange := by
  simp only [clockDraw, narrowClock, Config.ClockAnswer.InRange]; omega

/-- A clock answer in range is taken as it is. -/
theorem narrowClock_of_inRange {t : Config.ClockAnswer} (h : t.InRange) : narrowClock t = t := by
  obtain ⟨h1, h2, h3, h4, h5, h6, h7⟩ := h
  cases t; simp only [narrowClock, Config.ClockAnswer.mk.injEq, true_and, and_true]
  simp only at h1 h2 h3 h4 h5 h6 h7
  omega

/-- A queued clock answer in range is the answer drawn. -/
theorem clockDraw_queued {s : State} {a : Config.ClockAnswer} {rest : List Config.ClockAnswer}
    (hq : s.env.clocks = a :: rest) (ha : a.InRange) : clockDraw s = a ∧ (popClock s).env.clocks = rest := by
  simp [clockDraw, hq, Env.front, narrowClock_of_inRange ha]

/-! ## The regulator (R24, R69, R70, R74, R75) -/

theorem thresholdFor_le (c : Config.Params) (v : Nat) : thresholdFor c v ≤ 0xFFFF := Nat.min_le_right ..

theorem thresholdFor_toNat (c : Config.Params) (v : Nat) :
    (BitVec.ofNat 16 (thresholdFor c v)).toNat = thresholdFor c v := by
  have := thresholdFor_le c v
  simp only [BitVec.toNat_ofNat]; omega

/-- What SetPulseWidth leaves in the two registers, for a part that meets R10 (R74). -/
theorem setPulseWidth_spec (v : Int) {s : State} (hv : s.cfg.Valid) :
    ∃ o : Nat, clamp v s.cfg.pulseMin s.cfg.pulseMax = o ∧ s.cfg.pulseMin ≤ o ∧ o ≤ s.cfg.pulseMax ∧
      (setPulseWidth v s).pwmOn.toNat = o ∧
      (setPulseWidth v s).pwmTop.toNat =
        (if s.pwmTop.toNat < o + s.cfg.margin then o + s.cfg.margin else s.pwmTop.toNat) := by
  obtain ⟨h1, -, h3, h4, -⟩ := hv
  obtain ⟨o, ho, hlo, hhi⟩ := clamp_bounds v h1
  refine ⟨o, ho, hlo, hhi, ?_, ?_⟩
  · rw [setPulseWidth_pwmOn, ho, reg16_toNat (by omega)]
  · simp only [setPulseWidth, ho]
    by_cases h : s.pwmTop.toNat < o + s.cfg.margin
    · rw [if_pos (by omega), if_pos h]
      have := reg16_toNat (n := o + s.cfg.margin) (by omega)
      simpa using this
    · rw [if_neg (by omega), if_neg h]

/-- What SetPeriod leaves in `top`, for a part that meets R10 and a pulse width within its bounds (R75). -/
theorem setPeriod_spec (v : Int) {s : State} (hv : s.cfg.Valid) (hp : s.pwmOn.toNat ≤ s.cfg.pulseMax) :
    ∃ p : Nat, clamp v s.cfg.topMin s.cfg.topMax = p ∧ s.cfg.topMin ≤ p ∧ p ≤ s.cfg.topMax ∧
      (setPeriod v s).pwmTop.toNat = max p (s.pwmOn.toNat + s.cfg.margin) := by
  obtain ⟨-, h2, h3, h4, -⟩ := hv
  obtain ⟨p, hp', hlo, hhi⟩ := clamp_bounds v h2
  refine ⟨p, hp', hlo, hhi, ?_⟩
  rw [setPeriod_pwmTop, hp']
  have := reg16_toNat (n := max p (s.pwmOn.toNat + s.cfg.margin)) (by omega)
  simpa using this

theorem setPulseWidth_inRange (v : Int) {s : State} (hv : s.cfg.Valid) (h : PwmInRange s) :
    PwmInRange (setPulseWidth v s) := by
  obtain ⟨o, -, hlo, hhi, hon, htop⟩ := setPulseWidth_spec v hv
  obtain ⟨-, -, h3, h4, -⟩ := h
  obtain ⟨-, -, -, hv4, -⟩ := hv
  simp only [PwmInRange, setPulseWidth_cfg, hon, htop]
  refine ⟨hlo, hhi, ?_, ?_, ?_⟩ <;> split <;> omega

theorem setPeriod_inRange (v : Int) {s : State} (hv : s.cfg.Valid) (h : PwmInRange s) :
    PwmInRange (setPeriod v s) := by
  obtain ⟨h1, h2, -, -, -⟩ := h
  obtain ⟨p, -, hlo, hhi, htop⟩ := setPeriod_spec v hv h2
  obtain ⟨-, -, -, hv4, -⟩ := hv
  simp only [PwmInRange, setPeriod_cfg, setPeriod_pwmOn, htop]
  omega

/-- The new average stays below the bound of R27, so `acc` never wraps. -/
theorem nextAcc_le {s : State} (h : AccOk s) : nextAcc s (adcDraw s) ≤ Config.emaN * (2 ^ s.cfg.adcBits - 1) := by
  have hr := adcDraw_le s
  simp only [AccOk, Config.emaN] at h
  simp only [nextAcc, Config.emaN]
  split <;> omega

theorem sampleSmoothed_acc_toNat {s : State} (hv : s.cfg.Valid) (h : AccOk s) :
    (sampleSmoothed s).acc.toNat = nextAcc s (adcDraw s) := by
  have h1 := nextAcc_le h
  obtain ⟨_, _, _, _, _, _, _, _, _, _, _, _, _, _, h2, _⟩ := hv
  rw [sampleSmoothed_acc, BitVec.toNat_ofNat]
  exact Nat.mod_eq_of_lt (by omega)

theorem sampleSmoothed_accOk {s : State} (hv : s.cfg.Valid) (h : AccOk s) : AccOk (sampleSmoothed s) := by
  simp only [AccOk, sampleSmoothed_acc_toNat hv h, sampleSmoothed_cfg]
  exact nextAcc_le h

/-- A reading never exceeds the sensor's full scale. -/
theorem reading_le {s : State} (h : AccOk s) : reading s ≤ 2 ^ s.cfg.adcBits - 1 := by
  simp only [AccOk, Config.emaN] at h
  simp only [reading, Config.emaN]; omega

/-- RegCore returns the reading of the sample it took: SetPeriod leaves `acc` alone. -/
@[simp] theorem reading_regCore (t : Nat) (s : State) : reading (regCore t s) = reading (sampleSmoothed s) := by
  simp only [reading, regCore_acc]

theorem regCore_inRange (t : Nat) {s : State} (hv : s.cfg.Valid) (h : PwmInRange s) : PwmInRange (regCore t s) := by
  have h1 : PwmInRange (sampleSmoothed s) := by simpa [PwmInRange] using h
  have hv1 : (sampleSmoothed s).cfg.Valid := by simpa using hv
  simp only [regCore]; split <;> exact setPeriod_inRange _ hv1 h1

/-! ## The render pass (R83) -/

/-- `nextLit` gives the lowest lit position from `i` up. -/
theorem nextLit_eq_some {m : Mask} {i : Nat} {p : Position} :
    nextLit m i = some p ↔
      i ≤ p.val ∧ m.getLsbD p.val = true ∧ ∀ q : Position, i ≤ q.val → q < p → m.getLsbD q.val = false := by
  by_cases hi : i < 6
  · obtain ⟨j, rfl⟩ : ∃ j : Fin 6, i = j.val := ⟨⟨i, hi⟩, rfl⟩
    revert m j p; decide
  · constructor
    · intro h
      have := List.find?_some h
      simp at this; omega
    · intro h; omega

theorem nextLit_eq_none {m : Mask} {i : Nat} :
    nextLit m i = none ↔ ∀ q : Position, i ≤ q.val → m.getLsbD q.val = false := by
  simp only [nextLit, List.find?_eq_none, List.mem_finRange, forall_true_left, Bool.and_eq_true,
    decide_eq_true_eq, not_and, Bool.not_eq_true]

/-- A pass starts with the SEL_BCD of a lit position. -/
theorem passStart_eq_some {m : Mask} {k : PassPos} (h : passStart m = some k) :
    k.phase = .selBcd ∧ m.getLsbD k.i.val = true := by
  simp only [passStart, Option.map_eq_some_iff] at h
  obtain ⟨p, hp, rfl⟩ := h
  exact ⟨rfl, (nextLit_eq_some.mp hp).2.1⟩

/-- A pass starts at the lowest lit position. -/
theorem passStart_of_lowest {m : Mask} {p : Position} (h1 : m.getLsbD p.val = true)
    (h2 : ∀ q : Position, q < p → m.getLsbD q.val = false) : passStart m = some ⟨p, .selBcd⟩ := by
  have h := (nextLit_eq_some (i := 0)).mpr ⟨Nat.zero_le _, h1, fun q _ hq => h2 q hq⟩
  simp only [passStart, h, Option.map_some]

/-- After a GAP the pass goes on at the next lit position above. -/
theorem passNext_gap {s : State} {p q : Position} (h : p < q) (h1 : s.mask.getLsbD q.val = true)
    (h2 : ∀ r : Position, p < r → r < q → s.mask.getLsbD r.val = false) :
    passNext ⟨p, .gap⟩ s = some ⟨q, .selBcd⟩ := by
  have h := (nextLit_eq_some (i := p.val + 1)).mpr ⟨h, h1, fun r hr hq => h2 r hr hq⟩
  simp only [passNext, h, Option.map_some]

/-- The GAP of the highest lit position ends the pass. -/
theorem passNext_gap_last {s : State} {p : Position} (h : ∀ q : Position, p < q → s.mask.getLsbD q.val = false) :
    passNext ⟨p, .gap⟩ s = none := by
  have h := (nextLit_eq_none (i := p.val + 1)).mpr fun q hq => h q hq
  simp only [passNext, h, Option.map_none]

/-- The next STEP of a pass is at the same position, or is the SEL_BCD of a lit one. -/
theorem passNext_eq_some {k k' : PassPos} {s : State} (h : passNext k s = some k') :
    k'.i = k.i ∧ k.phase ≠ .gap ∨ k'.phase = .selBcd ∧ s.mask.getLsbD k'.i.val = true := by
  rcases k with ⟨i, ph⟩
  cases ph with
  | selBcd => simp only [passNext, Option.some.injEq] at h; subst h; exact .inl ⟨rfl, by simp⟩
  | selOn n => simp only [passNext, Option.some.injEq] at h; subst h; exact .inl ⟨rfl, by simp⟩
  | dwell n => simp only [passNext, Option.some.injEq] at h; subst h; exact .inl ⟨rfl, by simp⟩
  | gap =>
    simp only [passNext, Option.map_eq_some_iff] at h
    obtain ⟨p, hp, rfl⟩ := h
    exact .inr ⟨rfl, (nextLit_eq_some.mp hp).2.1⟩

/-- Only a GAP ends a pass. -/
theorem passNext_eq_none {k : PassPos} {s : State} (h : passNext k s = none) : k.phase = .gap := by
  rcases k with ⟨i, ph⟩
  cases ph <;> simp_all [passNext]

/-- The passes of a repeat start at a lit position, and there is at least one. -/
theorem passesStart_eq_some {m : Mask} {n n' : Nat} {k : PassPos} (h : passesStart m n = some (n', k)) :
    n' = n ∧ 1 ≤ n ∧ passStart m = some k := by
  simp only [passesStart] at h
  split at h
  · cases h
  · simp only [Option.map_eq_some_iff, Prod.mk.injEq] at h
    obtain ⟨k', hk, rfl, rfl⟩ := h
    exact ⟨rfl, by omega, hk⟩

/-- With exactly one position on, a pass starts there. -/
theorem passStart_bitAt (p : Position) : passStart (bitAt p) = some ⟨p, .selBcd⟩ := by
  revert p; decide

end Sys2Proof.Machine
end

