-- ==== Sys2Proof/Laws/Step.lean ====
section
/-! SUPPORT. What a step can do, said once: the inversion lemmas of `step`, `coreStep` and `busyStep`. -/

namespace Sys2Proof.Machine

open Sys2Proof.Safety

/-- A step is an input taking effect, or one STEP of the core, with the `run` input taken or with the host's move left
waiting. -/
theorem step_cases {s t : State} (h : step s = .next t) :
    (s.env.upcoming = some .reset ∧ t = applyReset s.dropInput) ∨
    (s.env.upcoming = some .tick ∧ t = edgeArrives s.dropInput) ∨
    (s.env.upcoming = some .startTick ∧ hostMayMove s = true ∧ t = tickStarts s.dropInput) ∨
    (∃ w, s.env.upcoming = some (.offer w) ∧ hostMayMove s = true ∧ t = { s.dropInput with cmdIn := some w }) ∨
    (s.env.upcoming = some .run ∧ coreStep s.dropInput = .next t) ∨
    coreStep s = .next t := by
  simp only [step, machineStep] at h
  split at h <;> rename_i hu
  · exact .inr (.inr (.inr (.inr (.inr h))))
  · exact .inr (.inr (.inr (.inr (.inl ⟨hu, h⟩))))
  · cases h; exact .inr (.inl ⟨hu, rfl⟩)
  · split at h
    · cases h; exact .inr (.inr (.inl ⟨hu, by assumption, rfl⟩))
    · exact .inr (.inr (.inr (.inr (.inr h))))
  · split at h
    · cases h; exact .inr (.inr (.inr (.inl ⟨_, hu, by assumption, rfl⟩)))
    · exact .inr (.inr (.inr (.inr (.inr h))))
  · cases h; exact .inl ⟨hu, rfl⟩

/-- A step with no RESET is no reset, and away from Idle it is no move of the host. -/
theorem step_cases_noReset {s t : State} (hr : NoReset s) (h : step s = .next t) :
    t = edgeArrives s.dropInput ∨
    (s.seq = .idle ∧ s.cmdIn = none ∧ (t = tickStarts s.dropInput ∨ ∃ w, t = { s.dropInput with cmdIn := some w })) ∨
    coreStep s.dropInput = .next t ∨
    coreStep s = .next t := by
  rcases step_cases h with ⟨hu, -⟩ | ⟨-, h⟩ | ⟨-, hm, h⟩ | ⟨w, -, hm, h⟩ | ⟨-, h⟩ | h
  · exact absurd hu hr
  · exact .inl h
  · obtain ⟨h1, h2⟩ := (hostMayMove_iff s).mp hm
    exact .inr (.inl ⟨h1, h2, .inl h⟩)
  · obtain ⟨h1, h2⟩ := (hostMayMove_iff s).mp hm
    exact .inr (.inl ⟨h1, h2, .inr ⟨w, h⟩⟩)
  · exact .inr (.inr (.inl h))
  · exact .inr (.inr (.inr h))

/-- With nothing to come, or with the host's next move waiting, a step is one STEP of the core. -/
theorem step_waiting {s : State} (h : s.env.upcoming = none ∨ HostWaits s) : step s = coreStep s := by
  simp only [step, machineStep]
  rcases h with h | ⟨hm, h⟩
  · rw [h]
  · split <;> simp_all [isHostMove]

/-- With no edge pending besides, it is the sequencer's. -/
theorem step_alone {s : State} (h : Alone s) : step s = seqStep s := by
  rw [step_waiting h.1, coreStep, if_pos h.2]

/-- A `run` input, listed or free, is one STEP of the core on the state without it. -/
theorem step_run {s : State} (h : s.env.upcoming = some .run) : step s = coreStep s.dropInput := by
  simp only [step, machineStep, h]

/-- One STEP of the core: the tick handler, acceptance or waiting in Idle, a STEP of a blocking report, or the next STEP of
the command in progress. -/
theorem coreStep_cases {s t : State} (h : coreStep s = .next t) :
    (s.tickPending ≠ 0 ∧ t = tickHandler s) ∨
    (s.tickPending = 0 ∧ s.seq = .idle ∧ t = acceptStep s) ∨
    (s.tickPending = 0 ∧ ∃ k, s.seq = .halted k ∧ t = faultStep none k s) ∨
    (s.tickPending = 0 ∧ ∃ w k, s.seq = .busy w k ∧ busyStep w k s = .next t) := by
  simp only [coreStep] at h
  split at h
  · rename_i h0
    simp only [seqStep] at h
    split at h
    · cases h; exact .inr (.inl ⟨h0, by assumption, rfl⟩)
    · exact .inr (.inr (.inr ⟨h0, _, _, by assumption, h⟩))
    · cases h; exact .inr (.inr (.inl ⟨h0, _, by assumption, rfl⟩))
  · cases h; exact .inl ⟨by assumption, rfl⟩

/-- The next STEP of a command: the decode step with the first STEP, or a later STEP. -/
theorem busyStep_cases {w : Word} {k : Pos} {s t : State} (h : busyStep w k s = .next t) :
    (k = .start ∧ decode w = none ∧ t = illegalCommand s) ∨
    (k = .start ∧ ∃ i, decode w = some i ∧ exec i s = .next t) ∨
    (∃ src p, k = .render src p ∧ t = renderStep w src p s) ∨
    (∃ c p, k = .depoison c p ∧ t = depoisonStep w c p s) ∨
    (∃ p, k = .fault p ∧ t = faultStep (some w) p s) ∨
    (k = .faultEnd ∧ t = faultEndStep s) ∨
    (∃ c p, k = .cal c p ∧ t = calStep w c p s) := by
  cases k with
  | start =>
    simp only [busyStep] at h
    split at h
    · exact .inr (.inl ⟨rfl, _, by assumption, h⟩)
    · cases h; exact .inl ⟨rfl, by assumption, rfl⟩
  | render src p => cases h; exact .inr (.inr (.inl ⟨_, _, rfl, rfl⟩))
  | depoison c p => cases h; exact .inr (.inr (.inr (.inl ⟨_, _, rfl, rfl⟩)))
  | fault p => cases h; exact .inr (.inr (.inr (.inr (.inl ⟨_, rfl, rfl⟩))))
  | faultEnd => cases h; exact .inr (.inr (.inr (.inr (.inr (.inl ⟨rfl, rfl⟩)))))
  | cal c p => cases h; exact .inr (.inr (.inr (.inr (.inr (.inr ⟨_, _, rfl, rfl⟩)))))


end Sys2Proof.Machine
end

