-- ==== Sys2Proof/Laws/Meanings.lean ====
section
/-! SUPPORT. What the meanings share: an ill-formed command is IllegalCommand and nothing else, and every other one keeps
`err`, the CMD port, the pending edges and the part; RegRead has a value exactly at the mapped indices. -/

namespace Sys2Proof.Machine

/-- RegRead has a value exactly at the mapped indices (R40, R108). -/
theorem regRead_isSome (x : BitVec 8) (s : State) : (regRead x s).isSome = isMappedIndex x := by
  have hx := x.isLt
  simp only [regRead, isMappedIndex]
  generalize x.toNat = n at hx ⊢
  split <;> try rfl
  simp only [imp_false] at *
  simp; omega

/-- A meaning's answer: IllegalCommand for a command out of range, and no exception for any other (R110). -/
theorem exec_cases {i : Instr} {s t : State} (h : exec i s = .next t) :
    (i.wellFormed = false ∧ t = illegalCommand s) ∨
    (i.wellFormed = true ∧ t.err = s.err ∧ t.cmdIn = s.cmdIn ∧ t.tickPending = s.tickPending ∧ t.cfg = s.cfg) := by
  cases i with
  | bcd d =>
    simp only [exec, execBcd] at h
    split at h <;> cases h <;> simp_all [Instr.wellFormed]
  | wrlive p d =>
    simp only [exec, execWrlive] at h
    split at h
    · split at h <;> cases h <;> simp_all [Instr.wellFormed]
    · cases h; simp_all [Instr.wellFormed]
  | wrdwell p d =>
    simp only [exec, execWrdwell] at h
    split at h <;> cases h <;> simp_all [Instr.wellFormed]
  | showtime a b c =>
    simp only [exec, execShowtime] at h
    split at h <;> cases h <;> simp_all [Instr.wellFormed]
  | fault a b =>
    simp only [exec, execFault] at h
    split at h
    · split at h <;> cases h <;> simp_all [Instr.wellFormed, faultPattern, drawLive, popDigit, State.withEnv]
    · cases h; simp_all [Instr.wellFormed]
  | rdreg x =>
    simp only [exec, execRdreg] at h
    have hm := regRead_isSome x s
    split at h <;> rename_i hx <;> rw [hx] at hm <;> cases h
    · exact .inr ⟨hm.symm, rfl, rfl, rfl, rfl⟩
    · exact .inl ⟨hm.symm, rfl⟩
  | render =>
    right
    simp only [exec, execRender, renderStep] at h
    (repeat' split at h) <;> cases h <;> simp [Instr.wellFormed, overlayRefresh] <;> split <;> simp
  | btnmode =>
    right
    simp only [exec, execBtnmode, modeStep, commit] at h
    split at h <;> cases h <;> simp [Instr.wellFormed, popClock, State.withEnv]
  | btnadj =>
    right
    simp only [exec, execBtnadj, adjustStep] at h
    split at h <;> cases h <;> simp [Instr.wellFormed, popClock, State.withEnv]
  | _ =>
    cases h
    simp [Instr.wellFormed, setPulseWidth, setPeriod, calGo, depoisonGo]
/-- Every meaning answers a next state (R111). -/
theorem exec_next (i : Instr) (s : State) : ∃ t, exec i s = .next t := by
  cases i <;>
    simp only [exec, execHven, execHvdis, execSeton, execSettop, execSettgt, execThresh, execSample, execRegstep,
      execCal, execBcd, execWrlive, execWrmask, execWrdwell, execShowtime, execRender, execDepoison, execFault,
      execBtnmode, execBtnadj, execRdreg] <;>
    (repeat' split) <;> exact ⟨_, rfl⟩

end Sys2Proof.Machine
end

