-- ==== Sys2Proof/Laws/Sequencer.lean ====
section
/-! SUPPORT. The frames of the later STEPs of RENDER, DEPOISON, FAULT and CAL: each lemma names every field such a STEP may
write, and every field not named is as before. -/

namespace Sys2Proof.Machine

theorem passStep_frame (src : FrameSrc) (k : PassPos) (s : State) :
    passStep src k s =
      { s with bcd := (passStep src k s).bcd, anode := (passStep src k s).anode, gate := (passStep src k s).gate } := by
  simp only [passStep]; split <;> rfl

theorem renderStep_frame (w : Word) (src : FrameSrc) (k : PassPos) (s : State) :
    renderStep w src k s =
      { s with
        bcd := (renderStep w src k s).bcd, anode := (renderStep w src k s).anode, gate := (renderStep w src k s).gate
        seq := (renderStep w src k s).seq } := by
  simp only [renderStep]
  split <;> rw [passStep_frame] <;> rfl

theorem depoisonStep_frame (w : Word) (c : DepoisonCtx) (k : DepoisonPos) (s : State) :
    depoisonStep w c k s =
      { s with
        live := (depoisonStep w c k s).live, mask := (depoisonStep w c k s).mask
        bcd := (depoisonStep w c k s).bcd, anode := (depoisonStep w c k s).anode
        gate := (depoisonStep w c k s).gate, seq := (depoisonStep w c k s).seq
        env := (depoisonStep w c k s).env } := by
  cases k with
  | burst p r d => simp only [depoisonStep]; split <;> rfl
  | pass p r d n k => simp only [depoisonStep]; split <;> rw [passStep_frame] <;> rfl
  | restore => rfl

theorem faultStep_frame (w : Option Word) (k : FaultPos) (s : State) :
    faultStep w k s =
      { s with
        mask := (faultStep w k s).mask, bcd := (faultStep w k s).bcd, anode := (faultStep w k s).anode
        gate := (faultStep w k s).gate, seq := (faultStep w k s).seq, env := (faultStep w k s).env } := by
  cases k with
  | mark ph j => simp only [faultStep]; split <;> rfl
  | pass ph j n k => simp only [faultStep]; split <;> rw [passStep_frame] <;> rfl

theorem drawLive_frame (p : Position) (s : State) :
    drawLive p s = { s with live := s.live.set p (digitDraw s), env := (popDigit s).env } := rfl

theorem faultPattern_frame (code : BitVec 8) (s : State) :
    faultPattern code s = { s with live := (faultPattern code s).live, env := (popDigits 3 s).env } := by
  simp only [faultPattern, drawLive_frame, popDigits, popDigit_eq, State.withEnv_env]

theorem drawFrame_frame (n : Nat) (s : State) :
    drawFrame n s = { s with live := (drawFrame n s).live, env := (drawFrame n s).env } := by
  induction n with
  | zero => rfl
  | succ n ih =>
    simp only [drawFrame]
    split
    · simp only [popDigit, State.withEnv]; rw [ih]
    · exact ih

/-- The draws of a display frame are digits, position 0 first (R80). -/
theorem drawFrame_env {n : Nat} (hn : n ≤ 6) (s : State) : (drawFrame n s).env = (popDigits n s).env := by
  induction n with
  | zero => rfl
  | succ n ih =>
    simp only [drawFrame, show n < 6 by omega, popDigits, dif_pos, popDigit_eq, State.withEnv_env, ih (by omega)]

theorem drawFrame_live {n p : Nat} (hn : n ≤ 6) (hp : p < n) (s : State) :
    (drawFrame n s).live[p] = digitDraw (popDigits p s) := by
  induction n with
  | zero => omega
  | succ n ih =>
    simp only [drawFrame, show n < 6 by omega, dif_pos, Vector.getElem_set]
    split
    · rename_i h; subst h; exact digitDraw_congr (drawFrame_env (by omega) s)
    · exact ih (by omega) (by omega)

theorem calContent_frame (s : State) :
    calContent s =
      { s with live := (calContent s).live, mask := (calContent s).mask, env := (calContent s).env } := by
  simp only [calContent, popMask, State.withEnv]
  rw [drawFrame_frame]

theorem sampleSmoothed_shape (s : State) : ∃ a e, sampleSmoothed s = { s with acc := a, seeded := true, env := e } :=
  ⟨_, _, rfl⟩

theorem setPulseWidth_shape (v : Int) (s : State) : ∃ o p, setPulseWidth v s = { s with pwmOn := o, pwmTop := p } :=
  ⟨_, _, rfl⟩

theorem setPeriod_shape (v : Int) (s : State) : ∃ p, setPeriod v s = { s with pwmTop := p } := ⟨_, rfl⟩

theorem regCore_shape (t : Nat) (s : State) :
    ∃ p a e, regCore t s = { s with pwmTop := p, acc := a, seeded := true, env := e } := by
  obtain ⟨a, e, h⟩ := sampleSmoothed_shape s
  simp only [regCore, h]
  split <;> exact ⟨_, _, _, rfl⟩

theorem calRaise_shape (j : Nat) (s : State) : ∃ o p, calRaise j s = { s with pwmOn := o, pwmTop := p } := by
  simp only [calRaise]; split <;> exact ⟨_, _, rfl⟩

theorem calLower_shape (j : Nat) (s : State) : ∃ o p, calLower j s = { s with pwmOn := o, pwmTop := p } := by
  simp only [calLower]; split <;> exact ⟨_, _, rfl⟩

theorem calDisplay_frame (w : Word) (c : CalCtx) (a : CalStep) (s : State) :
    calDisplay w c a s = { s with seq := (calDisplay w c a s).seq, env := (popPasses s).env } := rfl

theorem calDisplay_shape (w : Word) (c : CalCtx) (a : CalStep) (s : State) :
    ∃ q e, calDisplay w c a s = { s with seq := q, env := e } := ⟨_, _, rfl⟩

/-- Where CalDisplay goes: to the STEP after it, or to the first of the display passes drawn (R80). -/
theorem calDisplay_seq (w : Word) (c : CalCtx) (a : CalStep) (s : State) :
    (calDisplay w c a s).seq =
      .busy w (.cal c (if passesDraw 0 s = 0 then .search a else .content (passesDraw 0 s) a)) := rfl

/-- A STEP of the search writes the regulator, and its last STEP the display. -/
theorem calSearch_shape (w : Word) (c : CalCtx) (k : CalStep) (s : State) :
    ∃ o p a d h l m q e, calSearch w c k s =
      { s with
        pwmOn := o, pwmTop := p, acc := a, seeded := d, hvlife := h, live := l, mask := m, seq := q, env := e } := by
  obtain ⟨a, e, hs⟩ := sampleSmoothed_shape s
  cases k with
  | regulate1 n =>
    obtain ⟨p, a, e, h1⟩ := regCore_shape c.thrCal.toNat s
    simp only [calSearch, h1]
    exact ⟨_, _, _, _, _, _, _, _, _, rfl⟩
  | begin2 => exact ⟨_, _, _, _, _, _, _, _, _, rfl⟩
  | sample2 j =>
    simp only [calSearch]
    split
    · obtain ⟨o, p, h1⟩ := calRaise_shape j (sampleSmoothed s)
      obtain ⟨q, e', h2⟩ := calDisplay_shape w c (.sample2 (j + 1)) (calRaise j (sampleSmoothed s))
      rw [h2, h1, hs]
      exact ⟨_, _, _, _, _, _, _, _, _, rfl⟩
    · rw [hs]; exact ⟨_, _, _, _, _, _, _, _, _, rfl⟩
  | begin3 => exact ⟨_, _, _, _, _, _, _, _, _, rfl⟩
  | sample3 b j =>
    simp only [calSearch]
    split
    · obtain ⟨o, p, h1⟩ := calLower_shape j (sampleSmoothed s)
      obtain ⟨q, e', h2⟩ := calDisplay_shape w c (.sample3 b (j + 1)) (calLower j (sampleSmoothed s))
      rw [h2, h1, hs]
      exact ⟨_, _, _, _, _, _, _, _, _, rfl⟩
    · rw [hs]; exact ⟨_, _, _, _, _, _, _, _, _, rfl⟩
  | settle b => exact ⟨_, _, _, _, _, _, _, _, _, rfl⟩
  | regulate4 b t n =>
    obtain ⟨p, a, e, h1⟩ := regCore_shape c.thrCal.toNat s
    simp only [calSearch, h1]
    exact ⟨_, _, _, _, _, _, _, _, _, rfl⟩
  | restore => exact ⟨_, _, _, _, _, _, _, _, _, rfl⟩

/-- The fields CAL's STEPs may write: the regulator's, the display's and the outputs. -/
theorem calStep_frame (w : Word) (c : CalCtx) (k : CalPos) (s : State) :
    calStep w c k s =
      { s with
        pwmOn := (calStep w c k s).pwmOn, pwmTop := (calStep w c k s).pwmTop, acc := (calStep w c k s).acc
        seeded := (calStep w c k s).seeded, hvlife := (calStep w c k s).hvlife, live := (calStep w c k s).live
        mask := (calStep w c k s).mask, bcd := (calStep w c k s).bcd, anode := (calStep w c k s).anode
        gate := (calStep w c k s).gate, seq := (calStep w c k s).seq, env := (calStep w c k s).env } := by
  have shape : ∃ o p a d h l m b an g q e, calStep w c k s =
      { s with
        pwmOn := o, pwmTop := p, acc := a, seeded := d, hvlife := h, live := l, mask := m, bcd := b, anode := an
        gate := g, seq := q, env := e } := by
    cases k with
    | search k =>
      obtain ⟨o, p, a, d, h, l, m, q, e, hk⟩ := calSearch_shape w c k s
      exact ⟨o, p, a, d, h, l, m, _, _, _, q, e, hk⟩
    | content n after =>
      obtain ⟨l, m, e, hc⟩ : ∃ l m e, calContent s = { s with live := l, mask := m, env := e } :=
        ⟨_, _, _, calContent_frame s⟩
      simp only [calStep, hc]
      split <;> exact ⟨_, _, _, _, _, _, _, _, _, _, _, _, rfl⟩
    | pass n k after =>
      obtain ⟨b, an, g, hp⟩ : ∃ b an g, passStep .live k s = { s with bcd := b, anode := an, gate := g } :=
        ⟨_, _, _, passStep_frame .live k s⟩
      simp only [calStep, hp]
      split <;> exact ⟨_, _, _, _, _, _, _, _, _, _, _, _, rfl⟩
  obtain ⟨o, p, a, d, h, l, m, b, an, g, q, e, hs⟩ := shape
  rw [hs]

/-- A blocking report never leaves Halted (R98). -/
theorem faultStep_none_seq (k : FaultPos) (s : State) : ∃ k', (faultStep none k s).seq = .halted k' := by
  cases k <;> simp only [faultStep, blinkSeq, afterPhase] <;> (repeat' split) <;> simp_all

end Sys2Proof.Machine
end

