-- ==== Sys2Proof/Laws/Arrivals.lean ====
section
/-! SUPPORT. No STEP of the core takes an input or starts one: it only draws answers. And no STEP depends on what is to
come. -/

namespace Sys2Proof.Machine

/-- What arrives is the same: a STEP draws answers, and takes nothing from the inputs. -/
def SameArrivals (e f : Env) : Prop :=
  f.inputs = e.inputs ∧ f.onward = e.onward ∧ f.arrived = e.arrived ∧ f.tickOn = e.tickOn

theorem SameArrivals.refl (e : Env) : SameArrivals e e := ⟨rfl, rfl, rfl, rfl⟩

theorem SameArrivals.upcoming {e f : Env} (h : SameArrivals e f) : f.upcoming = e.upcoming := by
  simp only [Env.upcoming, h.1, h.2.1, h.2.2.1]

theorem drawFrame_arrivals (n : Nat) (s : State) : SameArrivals s.env (drawFrame n s).env := by
  induction n with
  | zero => exact .refl _
  | succ n ih => simp only [drawFrame]; split <;> exact ih

@[simp] theorem calRaise_env (j : Nat) (s : State) : (calRaise j s).env = s.env := by
  simp only [calRaise]; split <;> rfl

@[simp] theorem calLower_env (j : Nat) (s : State) : (calLower j s).env = s.env := by
  simp only [calLower]; split <;> rfl

theorem calDisplay_arrivals (w : Word) (c : CalCtx) (k : CalStep) {s s1 : State} (h : s1.env = (popAdc s).env) :
    SameArrivals s.env (calDisplay w c k s1).env := by
  simp [calDisplay, calGo, SameArrivals, h]

theorem calSearch_arrivals (w : Word) (c : CalCtx) (k : CalStep) (s : State) :
    SameArrivals s.env (calSearch w c k s).env := by
  cases k with
  | regulate1 n => exact calDisplay_arrivals _ _ _ (regCore_env ..)
  | regulate4 b t n => exact calDisplay_arrivals _ _ _ (regCore_env ..)
  | sample2 j =>
    simp only [calSearch]; split
    · exact calDisplay_arrivals _ _ _ (by rw [calRaise_env, sampleSmoothed_env])
    · exact .refl _
  | sample3 b j =>
    simp only [calSearch]; split
    · exact calDisplay_arrivals _ _ _ (by rw [calLower_env, sampleSmoothed_env])
    · exact .refl _
  | begin2 => exact .refl _
  | begin3 => exact .refl _
  | settle b => exact .refl _
  | restore => exact .refl _

theorem calStep_arrivals (w : Word) (c : CalCtx) (k : CalPos) (s : State) : SameArrivals s.env (calStep w c k s).env := by
  cases k with
  | search k => exact calSearch_arrivals ..
  | content n a =>
    have := drawFrame_arrivals 6 s
    simp only [calStep]; split <;> exact this
  | pass n k a =>
    simp only [calStep]; split <;> simp only [calGo, State.goTo_eq, State.withSeq_env, passStep_env] <;> exact .refl _

theorem depoisonStep_arrivals (w : Word) (c : DepoisonCtx) (k : DepoisonPos) (s : State) :
    SameArrivals s.env (depoisonStep w c k s).env := by
  cases k with
  | burst p r d => simp only [depoisonStep]; split <;> exact .refl _
  | pass p r d n k =>
    simp only [depoisonStep]; split <;>
      simp only [depoisonGo, State.goTo_eq, State.withSeq_env, passStep_env] <;> exact .refl _
  | restore => exact .refl _

theorem faultStep_arrivals (w : Option Word) (k : FaultPos) (s : State) : SameArrivals s.env (faultStep w k s).env := by
  cases k with
  | mark ph j => simp only [faultStep]; split <;> exact .refl _
  | pass ph j n k => simp only [faultStep]; split <;> simp only [State.withSeq_env, passStep_env] <;> exact .refl _

/-- No meaning takes an input. -/
theorem exec_arrivals {i : Instr} {s t : State} (h : exec i s = .next t) : SameArrivals s.env t.env := by
  cases i <;>
    simp only [exec, execHven, execHvdis, execSeton, execSettop, execSettgt, execThresh, execSample, execRegstep,
      execCal, execBcd, execWrlive, execWrmask, execWrdwell, execShowtime, execRender, execDepoison, execFault,
      execBtnmode, execBtnadj, execRdreg, regCore, renderStep, overlayRefresh, modeStep, adjustStep, commit] at h <;>
    (repeat' split at h) <;> cases h <;>
      simp [SameArrivals, illegalCommand, faultPattern, drawLive, State.withEnv, setPeriod,
        setPulseWidth, calGo, depoisonGo]

/-- No STEP of the core takes an input. -/
theorem coreStep_arrivals {s t : State} (h : coreStep s = .next t) : SameArrivals s.env t.env := by
  rcases coreStep_cases h with ⟨-, rfl⟩ | ⟨-, -, rfl⟩ | ⟨-, k, -, rfl⟩ | ⟨-, w, k, -, h⟩
  · exact .refl _
  · simp only [acceptStep]; split <;> exact .refl _
  · exact faultStep_arrivals ..
  · rcases busyStep_cases h with ⟨-, -, rfl⟩ | ⟨-, i, -, h⟩ | ⟨_, _, -, rfl⟩ | ⟨_, _, -, rfl⟩ | ⟨_, -, rfl⟩ | ⟨-, rfl⟩ |
      ⟨_, _, -, rfl⟩
    · exact .refl _
    · exact exec_arrivals h
    · rw [renderStep_frame]; exact .refl _
    · exact depoisonStep_arrivals ..
    · exact faultStep_arrivals ..
    · exact .refl _
    · exact calStep_arrivals ..

/-! ## A STEP does not depend on what is to come -/

/-- The state with other inputs to come. -/
def State.arriving (s : State) (l : List Config.Input) (o : Onward) (n : Nat) : State :=
  s.withEnv { s.env with inputs := l, onward := o, arrived := n }

variable (s : State) (l : List Config.Input) (o : Onward) (n : Nat)

theorem passStep_arriving (src : FrameSrc) (k : PassPos) :
    passStep src k (s.arriving l o n) = (passStep src k s).arriving l o n := by
  rcases k with ⟨i, ph⟩
  cases ph <;> cases src <;> rfl

theorem passNext_arriving (k : PassPos) : passNext k (s.arriving l o n) = passNext k s := by
  rcases k with ⟨i, ph⟩
  cases ph <;> rfl

theorem passesNext_arriving (m : Nat) (k : PassPos) : passesNext m k (s.arriving l o n) = passesNext m k s := by
  simp only [passesNext, passNext_arriving]; rfl

theorem renderStep_arriving (w : Word) (src : FrameSrc) (k : PassPos) :
    renderStep w src k (s.arriving l o n) = (renderStep w src k s).arriving l o n := by
  simp only [renderStep, passStep_arriving, passNext_arriving]; split <;> rfl

theorem depoisonStep_arriving (w : Word) (c : DepoisonCtx) (k : DepoisonPos) :
    depoisonStep w c k (s.arriving l o n) = (depoisonStep w c k s).arriving l o n := by
  cases k with
  | burst p r d =>
    have h1 : burstStep p d (s.arriving l o n) = (burstStep p d s).arriving l o n := rfl
    have h2 : passesDraw 1 (s.arriving l o n) = passesDraw 1 s := rfl
    have h3 : ((burstStep p d s).arriving l o n).mask = (burstStep p d s).mask := rfl
    simp only [depoisonStep, h1, h2, h3]; split <;> rfl
  | pass p r d m k => simp only [depoisonStep, passStep_arriving, passesNext_arriving]; split <;> rfl
  | restore => rfl

theorem faultStep_arriving (w : Option Word) (k : FaultPos) :
    faultStep w k (s.arriving l o n) = (faultStep w k s).arriving l o n := by
  cases k with
  | mark ph j =>
    have h1 : blinkStep ph (s.arriving l o n) = (blinkStep ph s).arriving l o n := rfl
    have h2 : passesDraw 1 (s.arriving l o n) = passesDraw 1 s := rfl
    have h3 : ((blinkStep ph s).arriving l o n).mask = (blinkStep ph s).mask := rfl
    simp only [faultStep, h1, h2, h3]; split <;> rfl
  | pass ph j m k => simp only [faultStep, passStep_arriving, passesNext_arriving]; split <;> rfl

theorem regCore_arriving (t : Nat) : regCore t (s.arriving l o n) = (regCore t s).arriving l o n := by
  have h1 : sampleSmoothed (s.arriving l o n) = (sampleSmoothed s).arriving l o n := rfl
  have h2 : reading ((sampleSmoothed s).arriving l o n) = reading (sampleSmoothed s) := rfl
  simp only [regCore, h1, h2]; split <;> rfl

theorem calRaise_arriving (j : Nat) : calRaise j (s.arriving l o n) = (calRaise j s).arriving l o n := by
  simp only [calRaise]; split <;> rfl

theorem calLower_arriving (j : Nat) : calLower j (s.arriving l o n) = (calLower j s).arriving l o n := by
  simp only [calLower]; split <;> rfl

theorem calDisplay_arriving (w : Word) (c : CalCtx) (k : CalStep) :
    calDisplay w c k (s.arriving l o n) = (calDisplay w c k s).arriving l o n := rfl

theorem calSearch_arriving (w : Word) (c : CalCtx) (k : CalStep) :
    calSearch w c k (s.arriving l o n) = (calSearch w c k s).arriving l o n := by
  have h1 : sampleSmoothed (s.arriving l o n) = (sampleSmoothed s).arriving l o n := rfl
  have h2 : reading ((sampleSmoothed s).arriving l o n) = reading (sampleSmoothed s) := rfl
  cases k with
  | regulate1 m => simp only [calSearch, regCore_arriving, calDisplay_arriving]
  | regulate4 b t m => simp only [calSearch, regCore_arriving, calDisplay_arriving]
  | sample2 j => simp only [calSearch, h1, h2, calRaise_arriving, calDisplay_arriving]; split <;> rfl
  | sample3 b j => simp only [calSearch, h1, h2, calLower_arriving, calDisplay_arriving]; split <;> rfl
  | begin2 => rfl
  | begin3 => rfl
  | settle b => rfl
  | restore => rfl

theorem drawFrame_arriving (m : Nat) : drawFrame m (s.arriving l o n) = (drawFrame m s).arriving l o n := by
  induction m with
  | zero => rfl
  | succ m ih => simp only [drawFrame, ih]; split <;> rfl

theorem calContent_arriving : calContent (s.arriving l o n) = (calContent s).arriving l o n := by
  simp only [calContent, drawFrame_arriving]; rfl

theorem calStep_arriving (w : Word) (c : CalCtx) (k : CalPos) :
    calStep w c k (s.arriving l o n) = (calStep w c k s).arriving l o n := by
  cases k with
  | search k => exact calSearch_arriving ..
  | content m a =>
    have h : ((calContent s).arriving l o n).mask = (calContent s).mask := rfl
    simp only [calStep, calContent_arriving, h]; split <;> rfl
  | pass m k a => simp only [calStep, passStep_arriving, passNext_arriving]; split <;> rfl

/-- An answer with other inputs to come. -/
def arrivingResult (r : Result) : Result :=
  match r with
  | .next t => .next (t.arriving l o n)
  | .fault f => .fault f
  | .refused f => .refused f

theorem exec_arriving (i : Instr) : exec i (s.arriving l o n) = arrivingResult l o n (exec i s) := by
  cases i with
  | render =>
    have h1 : (s.arriving l o n).ui = s.ui := rfl
    have h2 : (s.arriving l o n).mask = s.mask := rfl
    have h3 : overlayRefresh (s.arriving l o n) = (overlayRefresh s).arriving l o n := by
      cases h : s.ui <;> simp only [overlayRefresh, h1, h] <;> rfl
    have h4 : ((overlayRefresh s).arriving l o n).mask = (overlayRefresh s).mask := rfl
    simp only [exec, execRender, h1, h2, h3, h4, renderStep_arriving]
    split <;> split <;> rfl
  | regstep => simp only [exec, execRegstep]; rw [show (s.arriving l o n).thr = s.thr from rfl, regCore_arriving]; rfl
  | btnmode =>
    have h1 : (s.arriving l o n).ui = s.ui := rfl
    cases h : s.ui <;> simp only [exec, execBtnmode, modeStep, h1, h] <;> rfl
  | btnadj =>
    have h1 : (s.arriving l o n).ui = s.ui := rfl
    cases h : s.ui <;> simp only [exec, execBtnadj, adjustStep, h1, h] <;> rfl
  | bcd d => simp only [exec, execBcd]; split <;> rfl
  | wrlive p d => simp only [exec, execWrlive]; split <;> (try split) <;> rfl
  | wrdwell p d => simp only [exec, execWrdwell]; split <;> rfl
  | showtime a b c => simp only [exec, execShowtime]; split <;> rfl
  | fault a b =>
    simp only [exec, execFault]
    split
    · split <;> rfl
    · rfl
  | rdreg x =>
    have h : regRead x (s.arriving l o n) = regRead x s := rfl
    simp only [exec, execRdreg, h]; split <;> rfl
  | _ => rfl

/-- One STEP of the core is the same whatever inputs are to come, and it leaves them to come. -/
theorem coreStep_arriving : coreStep (s.arriving l o n) = arrivingResult l o n (coreStep s) := by
  have h0 : (s.arriving l o n).tickPending = s.tickPending := rfl
  have h1 : (s.arriving l o n).seq = s.seq := rfl
  have h2 : (s.arriving l o n).cmdIn = s.cmdIn := rfl
  simp only [coreStep, h0]
  split
  · simp only [seqStep, h1]
    split
    · simp only [acceptStep, h2]; split <;> rfl
    · rename_i w k _
      cases k with
      | start =>
        simp only [busyStep]; split
        · exact exec_arriving ..
        · rfl
      | render src k => simp only [busyStep, renderStep_arriving]; rfl
      | depoison c k => simp only [busyStep, depoisonStep_arriving]; rfl
      | fault k => simp only [busyStep, faultStep_arriving]; rfl
      | faultEnd => rfl
      | cal c k => simp only [busyStep, calStep_arriving]; rfl
    · simp only [faultStep_arriving]; rfl
  · rfl

end Sys2Proof.Machine
end

