-- ==== Sys2Proof/Laws/Decode.lean ====
section
/-! SUPPORT. The fields of a packed word, and how a word and its fields determine each other (R58). -/

namespace Sys2Proof

/-- A concatenation as a number. -/
theorem toNat_append_eq {m n : Nat} (x : BitVec m) (y : BitVec n) : (x ++ y).toNat = x.toNat * 2 ^ n + y.toNat := by
  rw [BitVec.toNat_append, ← Nat.shiftLeft_add_eq_or_of_lt y.isLt, Nat.shiftLeft_eq]

/-- The word `{OP, A, B}` as a number. -/
theorem packWord_toNat (op a : BitVec 8) (b : BitVec 16) :
    (packWord op a b).toNat = (op.toNat * 2 ^ 8 + a.toNat) * 2 ^ 16 + b.toNat := by
  have h : (op ++ a ++ b).toNat = (op.toNat * 2 ^ 8 + a.toNat) * 2 ^ 16 + b.toNat := by
    rw [toNat_append_eq, toNat_append_eq]
  exact h

theorem opField_toNat (w : Word) : (opField w).toNat = w.toNat / 2 ^ 24 % 2 ^ 8 := by
  simp [opField, Nat.shiftRight_eq_div_pow]

theorem aField_toNat (w : Word) : (aField w).toNat = w.toNat / 2 ^ 16 % 2 ^ 8 := by
  simp [aField, Nat.shiftRight_eq_div_pow]

theorem bField_toNat (w : Word) : (bField w).toNat = w.toNat % 2 ^ 16 := by
  simp [bField]

@[simp] theorem opField_packWord (op a : BitVec 8) (b : BitVec 16) : opField (packWord op a b) = op := by
  apply BitVec.eq_of_toNat_eq
  rw [opField_toNat, packWord_toNat]
  have := a.isLt; have := b.isLt; have := op.isLt
  omega

@[simp] theorem aField_packWord (op a : BitVec 8) (b : BitVec 16) : aField (packWord op a b) = a := by
  apply BitVec.eq_of_toNat_eq
  rw [aField_toNat, packWord_toNat]
  have := a.isLt; have := b.isLt; have := op.isLt
  omega

@[simp] theorem bField_packWord (op a : BitVec 8) (b : BitVec 16) : bField (packWord op a b) = b := by
  apply BitVec.eq_of_toNat_eq
  rw [bField_toNat, packWord_toNat]
  have := b.isLt
  omega

/-- A word is the packing of its fields. -/
theorem packWord_fields (w : Word) : packWord (opField w) (aField w) (bField w) = w := by
  apply BitVec.eq_of_toNat_eq
  rw [packWord_toNat, opField_toNat, aField_toNat, bField_toNat]
  have := w.isLt
  omega

/-- `b >>> n = 0` says that no bit from `n` up is set. -/
theorem shiftRight_eq_zero_iff (b : BitVec 16) (n : Nat) : b >>> n = 0#16 ↔ b.toNat < 2 ^ n := by
  rw [← BitVec.toNat_inj]
  simp [Nat.shiftRight_eq_div_pow, Nat.div_eq_zero_iff]

/-- A decoded word gives back its fields. -/
theorem decode_packWord (op a : BitVec 8) (b : BitVec 16) : decode (packWord op a b) = decodeFields op a b := by
  simp only [decode, opField_packWord, aField_packWord, bField_packWord]

end Sys2Proof
end

