-- ==== Sys2Proof/Laws/Display.lean ====
section
/-! SUPPORT. Frames stay frames of DigitValues, and a STEP of a pass keeps the outputs as R84 and R85 say. -/

namespace Sys2Proof.Machine

open Sys2Proof.Safety

/-! ## Frames (R15, R30) -/

theorem frameOk_set {f : Frame} (h : FrameOk f) (p : Nat) (hp : p < 6) {d : Digit} (hd : isDigitValue d = true) :
    FrameOk (f.set p d) := by
  intro q
  have := h q
  simp only [Fin.getElem_fin, Vector.getElem_set] at this ⊢
  split
  · exact hd
  · exact this

theorem frameOk_frameOf {lo mid hi : Nat} (h1 : lo ≤ 99) (h2 : mid ≤ 99) (h3 : hi ≤ 99) :
    FrameOk (frameOf lo mid hi) := fun
  | 0 => isDigitValue_units lo
  | 1 => isDigitValue_tens h1
  | 2 => isDigitValue_units mid
  | 3 => isDigitValue_tens h2
  | 4 => isDigitValue_units hi
  | 5 => isDigitValue_tens h3

theorem frameOk_replicate {d : Digit} (hd : isDigitValue d = true) : FrameOk (Vector.replicate 6 d) := by
  intro q; simpa using hd

theorem frameOk_drawFrame (n : Nat) {s : State} (h : FrameOk s.live) : FrameOk (drawFrame n s).live := by
  induction n with
  | zero => exact h
  | succ n ih =>
    simp only [drawFrame]; split
    · exact frameOk_set ih _ (by omega) (isDigitValue_digitDraw _)
    · exact ih

theorem isDigitValue_bcdCode {d : Digit} (h : isDigitValue d = true) : isDigitValue (bcdCode d) = true := by
  revert d; decide

theorem isDigitValue_passStep_bcd {src : FrameSrc} {k : PassPos} {s : State} (hl : FrameOk s.live) (ho : FrameOk s.ovl)
    (hb : isDigitValue s.bcd = true) : isDigitValue (passStep src k s).bcd = true := by
  simp only [passStep]; split
  · apply isDigitValue_bcdCode
    cases src
    · exact hl k.i
    · exact ho k.i
  all_goals exact hb

/-- No month is longer than 31 days (R99). -/
theorem monthLen_le (m : Nat) : monthLen m ≤ 31 := by
  simp only [monthLen]
  rcases Nat.lt_or_ge (m - 1) 12 with h | h
  · generalize m - 1 = n at h ⊢; revert n; decide
  · rw [List.getD_eq_default]; simpa using h

/-! ## The outputs (R84, R85) -/

/-- Outside any pass the outputs are right when every anode is off. -/
theorem outputsOk_outside {s : State} (h : passOf s.seq = none) (ha : s.anode = 0#6) : OutputsOk s := by
  simp [OutputsOk, litPosition, h, ha]

/-- At a SEL_BCD or SEL_ON. -/
theorem outputsOk_dark {s : State} {k : PassPos} (h : passOf s.seq = some k) (hl : PassPhase.isLit k.phase = false)
    (ha : s.anode = 0#6) (hm : s.mask.getLsbD k.i.val = true) : OutputsOk s := by
  simp [OutputsOk, litPosition, h, ha, hl, hm]

/-- At a DWELL or GAP. -/
theorem outputsOk_lit {s : State} {k : PassPos} (h : passOf s.seq = some k) (hl : PassPhase.isLit k.phase = true)
    (ha : s.anode = bitAt k.i) (hg : s.gate = true) (hm : s.mask.getLsbD k.i.val = true) : OutputsOk s := by
  simp [OutputsOk, litPosition, h, ha, hl, hm, hg]

theorem OutputsOk.anode_outside {s : State} (ho : OutputsOk s) (h : passOf s.seq = none) : s.anode = 0#6 := by
  simpa [OutputsOk, litPosition, h] using ho.1

/-- A STEP of a pass keeps the outputs right, whether the pass goes on, ends, or is followed by another. -/
theorem passStep_outputsOk {src : FrameSrc} {k : PassPos} {s t : State} (ho : OutputsOk s) (hk : passOf s.seq = some k)
    (ha : t.anode = (passStep src k s).anode) (hg : t.gate = (passStep src k s).gate) (hm : t.mask = s.mask)
    (hq : passOf t.seq = passNext k (passStep src k s) ∨
      passNext k (passStep src k s) = none ∧
        (passOf t.seq = none ∨ ∃ k', passOf t.seq = some k' ∧ passStart s.mask = some k')) : OutputsOk t := by
  obtain ⟨h1, h2⟩ := ho
  have hmk := h2 k hk
  simp only [litPosition, hk] at h1
  rcases k with ⟨i, ph⟩
  cases ph with
  | selBcd =>
    simp [passNext, PassPhase.isLit] at hq h1
    exact outputsOk_dark hq rfl (by rw [ha]; exact h1) (by rw [hm]; exact hmk)
  | selOn n =>
    simp [passNext] at hq
    refine outputsOk_lit hq ?_ ?_ ?_ (by rw [hm]; exact hmk)
    · simp only [holdPhase]; split <;> rfl
    · rw [ha]; rfl
    · rw [hg]; rfl
  | dwell n =>
    simp [passNext, PassPhase.isLit] at hq h1
    refine outputsOk_lit hq ?_ ?_ ?_ (by rw [hm]; exact hmk)
    · simp only [holdPhase]; split <;> rfl
    · rw [ha]; exact h1.1
    · rw [hg]; exact h1.2
  | gap =>
    have ha0 : t.anode = 0#6 := by rw [ha]; rfl
    rcases hq with hq | ⟨hn, hq | ⟨k', hq, hp⟩⟩
    · cases hp : passNext ⟨i, .gap⟩ (passStep src ⟨i, .gap⟩ s) with
      | none => rw [hp] at hq; exact outputsOk_outside hq ha0
      | some k' =>
        rw [hp] at hq
        rcases passNext_eq_some hp with ⟨-, hne⟩ | ⟨hph, hmm⟩
        · exact absurd rfl hne
        · exact outputsOk_dark hq (by rw [hph]; rfl) ha0 (by rw [hm]; simpa using hmm)
    · exact outputsOk_outside hq ha0
    · obtain ⟨hph, hmm⟩ := passStart_eq_some hp
      exact outputsOk_dark hq (by rw [hph]; rfl) ha0 (by rw [hm]; exact hmm)

end Sys2Proof.Machine
end

