-- ==== Sys2Proof/Laws/PerInstr.lean ====
section
/-! SUPPORT. One family of statements about every command as syntax: its word carries its opcode and its two operand fields,
and spells the command's own row of R62. -/

namespace Sys2Proof.Laws.Spelling

open Sys2Proof

/-- The word of a command has the command's fields (R58, R61), and matches the command's row of R62. -/
def Statement (i : Instr) : Prop :=
  opField (encode i) = opcode i ∧ aField (encode i) = operandA i ∧ bField (encode i) = operandB i ∧
    ∃ r, opcodeRows[rowIndex i]? = some r ∧ r.pattern = packWord (opcode i) 0#8 0#16

theorem fields (i : Instr) :
    opField (encode i) = opcode i ∧ aField (encode i) = operandA i ∧ bField (encode i) = operandB i :=
  ⟨opField_packWord .., aField_packWord .., bField_packWord ..⟩

/-- What is left for one command: its row of R62. -/
theorem of_row {i : Instr} {r : OpcodeRow} (h : opcodeRows[rowIndex i]? = some r)
    (hp : r.pattern = packWord (opcode i) 0#8 0#16) : Statement i :=
  ⟨(fields i).1, (fields i).2.1, (fields i).2.2, r, h, hp⟩

theorem hven : Statement .hven := of_row rfl (by simp only [opcode]; decide)
theorem hvdis : Statement .hvdis := of_row rfl (by simp only [opcode]; decide)
theorem seton (v : BitVec 16) : Statement (.seton v) := of_row rfl (by simp only [opcode]; decide)
theorem settop (v : BitVec 16) : Statement (.settop v) := of_row rfl (by simp only [opcode]; decide)
theorem settgt (v : BitVec 8) : Statement (.settgt v) := of_row rfl (by simp only [opcode]; decide)
theorem thresh (v : BitVec 16) : Statement (.thresh v) := of_row rfl (by simp only [opcode]; decide)
theorem sample : Statement .sample := of_row rfl (by simp only [opcode]; decide)
theorem regstep : Statement .regstep := of_row rfl (by simp only [opcode]; decide)
theorem cal : Statement .cal := of_row rfl (by simp only [opcode]; decide)
theorem bcd (d : BitVec 4) : Statement (.bcd d) := of_row rfl (by simp only [opcode]; decide)
theorem wrlive (p : BitVec 8) (d : BitVec 4) : Statement (.wrlive p d) := of_row rfl (by simp only [opcode]; decide)
theorem wrmask (m : BitVec 6) : Statement (.wrmask m) := of_row rfl (by simp only [opcode]; decide)
theorem wrdwell (p : BitVec 8) (c : BitVec 16) : Statement (.wrdwell p c) := of_row rfl (by simp only [opcode]; decide)
theorem showtime (h m s : BitVec 8) : Statement (.showtime h m s) := of_row rfl (by simp only [opcode]; decide)
theorem render : Statement .render := of_row rfl (by simp only [opcode]; decide)
theorem depoison (r : BitVec 16) : Statement (.depoison r) := of_row rfl (by simp only [opcode]; decide)
theorem fault (c : BitVec 8) (b : Bool) : Statement (.fault c b) := of_row rfl (by simp only [opcode]; decide)
theorem btnmode : Statement .btnmode := of_row rfl (by simp only [opcode]; decide)
theorem btnadj : Statement .btnadj := of_row rfl (by simp only [opcode]; decide)
theorem rdreg (x : BitVec 8) : Statement (.rdreg x) := of_row rfl (by simp only [opcode]; decide)

end Sys2Proof.Laws.Spelling
end

