-- ==== Sys2Proof/Tests/Slice0.lean ====
section
/-! SUPPORT. Tests whose expected results are the vectors of 95_test_vectors.md (named in each comment), the smoke tests of
WellFormed, words written out from 30_encoding.md, and a witness for the hypotheses of every obligation that has any. -/

namespace Sys2Proof.Tests

open Sys2Proof.Machine Sys2Proof.Safety

/-! ## Helpers -/

/-- The reset state of the reference configuration. -/
def rcReset : State := State.resetOf Config.rc

/-- Whether an answer is a next state with a property. -/
def gives (r : Result) (p : State → Bool) : Bool :=
  match r with
  | .next t => p t
  | .fault _ => false
  | .refused _ => false

/-- One step of `s` with the word `w` accepted. -/
def runs (s : State) (w : Nat) (p : State → Bool) : Bool := gives (step (s.withFetchWord 32 w)) p

/-- `s` with these raw ADC samples queued. -/
def withAdc (l : List Nat) (s : State) : State := s.withEnv { s.env with adc := l }

/-- `s` with these pass counts queued. -/
def withPasses (l : List Nat) (s : State) : State := s.withEnv { s.env with passes := l }

/-- `s` with this clock answer queued. -/
def withClock (t : Config.ClockAnswer) (s : State) : State := s.withEnv { s.env with clocks := [t] }

/-- The reset state of RC with the sequencer at a place. -/
def seqAt (q : Seq) : State := { rcReset with seq := q }

/-- What CAL saves from the reset state of RC: thresholds 925 and 900 (vector CAL-1). -/
def calCtx : CalCtx := ⟨rcReset.live, 0b111111#6, 925#16, 900#16⟩

/-- The reset state of RC inside CAL. -/
def calAt (k : CalPos) : State := seqAt (.busy 0x09000000#32 (.cal calCtx k))

/-- `s` with these inputs to come. -/
def withInputs (l : List Config.Input) (s : State) : State := s.withEnv { s.env with inputs := l }

/-- `s` with these digits queued. -/
def withDigits (l : List Digit) (s : State) : State := s.withEnv { s.env with digits := l }

/-- The clock answer of vector SM-1. -/
def july15 : Config.ClockAnswer := ⟨2024, 7, 15, 9, 41, 30, 1⟩

/-! ## WellFormed: one ill-formed term for each check (R61) -/

theorem test_bcd_digit_checked : (Instr.bcd 10#4).wellFormed = false := by decide
theorem test_wrlive_position_checked : (Instr.wrlive 6#8 0#4).wellFormed = false := by decide
theorem test_wrlive_digit_checked : (Instr.wrlive 0#8 12#4).wellFormed = false := by decide
theorem test_wrdwell_position_checked : (Instr.wrdwell 6#8 1000#16).wellFormed = false := by decide
theorem test_showtime_hour_checked : (Instr.showtime 24#8 0#8 0#8).wellFormed = false := by decide
theorem test_showtime_minute_checked : (Instr.showtime 12#8 60#8 0#8).wellFormed = false := by decide
theorem test_showtime_second_checked : (Instr.showtime 12#8 0#8 60#8).wellFormed = false := by decide
theorem test_fault_code_checked : (Instr.fault 10#8 false).wellFormed = false := by decide
theorem test_rdreg_index_checked :
    [0x0C#8, 0x0F#8, 0x16#8, 0x1E#8, 0x26#8, 0x2D#8, 0xFF#8].all (fun x => !(Instr.rdreg x).wellFormed) = true := by
  decide

/-! ## Decoding: words of the spec (R61, 95_test_vectors.md) -/

theorem test_decode_hven : decode 0x01000000#32 = some .hven := by decide
theorem test_decode_hvdis : decode 0x02000000#32 = some .hvdis := by decide
theorem test_decode_seton : decode 0x03002710#32 = some (.seton 10000#16) := by decide
theorem test_decode_settop : decode 0x04000032#32 = some (.settop 50#16) := by decide
theorem test_decode_settgt : decode 0x050000BE#32 = some (.settgt 190#8) := by decide
theorem test_decode_thresh : decode 0x060000B9#32 = some (.thresh 185#16) := by decide
theorem test_decode_sample : decode 0x07000000#32 = some .sample := by decide
theorem test_decode_regstep : decode 0x08000000#32 = some .regstep := by decide
theorem test_decode_cal : decode 0x09000000#32 = some .cal := by decide
theorem test_decode_bcd : decode 0x10000007#32 = some (.bcd 7#4) := by decide
theorem test_decode_wrlive : decode 0x1103000F#32 = some (.wrlive 3#8 15#4) := by decide
theorem test_decode_wrmask : decode 0x12000031#32 = some (.wrmask 0b110001#6) := by decide
theorem test_decode_wrdwell : decode 0x130204D2#32 = some (.wrdwell 2#8 1234#16) := by decide
theorem test_decode_showtime : decode 0x14090507#32 = some (.showtime 9#8 5#8 7#8) := by decide
theorem test_decode_render : decode 0x15000000#32 = some .render := by decide
theorem test_decode_depoison : decode 0x20000005#32 = some (.depoison 5#16) := by decide
theorem test_decode_fault : decode 0x21030000#32 = some (.fault 3#8 false) := by decide
theorem test_decode_btnmode : decode 0x30000000#32 = some .btnmode := by decide
theorem test_decode_btnadj : decode 0x31000000#32 = some .btnadj := by decide
theorem test_decode_rdreg : decode 0x40220000#32 = some (.rdreg 0x22#8) := by decide
/-- Unassigned opcodes and set reserved bits (R63; HV-TGT-3, MUX-BCD-4, MUX-WM-2, DP-4, FT-4, RD-7, IL-1, IL-2, IL-3). -/
theorem test_decode_refuses :
    [0x05000100#32, 0x10000017#32, 0x12000040#32, 0x20010001#32, 0x21000002#32, 0x40000001#32, 0x00000000#32,
     0xFFFFFFFF#32, 0x01000001#32, 0x0A000000#32, 0x16000000#32, 0x22000000#32, 0x32000000#32, 0x41000000#32].all
      (fun w => (decode w).isNone) = true := by decide

/-! ## One step of each command -/

/-- HV-EN-1. -/
theorem test_hven : runs rcReset 0x01000000 (fun t => t.gate && t.hvlife == .steady && t.seq == .idle) = true := by decide
/-- HV-EN-2. -/
theorem test_hvdis :
    runs { rcReset with gate := true, hvlife := .steady } 0x02000000 (fun t => !t.gate && t.hvlife == .steady) = true := by
  decide
/-- HV-ON-1. -/
theorem test_seton_clamps : runs rcReset 0x03002710 (fun t => t.pwmOn == 400#16 && t.pwmTop == 500#16) = true := by decide
/-- HV-ON-3. -/
theorem test_seton_raises_period :
    runs { rcReset with pwmTop := 310#16 } 0x0300012C (fun t => t.pwmOn == 300#16 && t.pwmTop == 320#16) = true := by decide
/-- HV-TOP-2. -/
theorem test_settop_keeps_margin :
    runs { rcReset with pwmOn := 400#16, pwmTop := 420#16 } 0x04000032 (fun t => t.pwmTop == 420#16) = true := by decide
/-- HV-TOP-3. -/
theorem test_settop_clamps : runs rcReset 0x0400FFFF (fun t => t.pwmTop == 2000#16 && t.pwmOn == 50#16) = true := by decide
/-- HV-TGT-1. -/
theorem test_settgt : runs rcReset 0x050000BE (fun t => t.target == 190#8 && t.thr == 950#16) = true := by decide
/-- HV-THR-1. -/
theorem test_thresh : runs rcReset 0x060000B9 (fun t => t.res == 925#16 && t.thr == 900#16) = true := by decide
/-- HV-THR-3. -/
theorem test_thresh_saturates : runs rcReset 0x0600FFFF (fun t => t.res == 65535#16) = true := by decide
/-- HV-SMP-1. -/
theorem test_sample_seeds :
    runs (withAdc [875] rcReset) 0x07000000 (fun t => t.acc == 700000#32 && t.seeded && t.res == 875#16) = true := by decide
/-- HV-SMP-2. -/
theorem test_sample_folds :
    runs (withAdc [1000] { rcReset with acc := 700000#32, seeded := true }) 0x07000000
      (fun t => t.acc == 700125#32 && t.res == 875#16) = true := by decide
/-- HV-REG-4. -/
theorem test_regstep_mid : runs (withAdc [911] rcReset) 0x08000000 (fun t => t.pwmTop == 495#16 && t.res == 911#16) = true := by
  decide
/-- HV-REG-7. -/
theorem test_regstep_clamps :
    runs (withAdc [0] { rcReset with pwmTop := 1990#16 }) 0x08000000 (fun t => t.pwmTop == 2000#16) = true := by decide
/-- CAL-1, entry. -/
theorem test_cal_entry :
    runs rcReset 0x09000000
      (fun t => t.hvlife == .calibrating &&
        match t.seq with
        | .busy _ (.cal c (.search (.regulate1 n))) => c.thrCal == 925#16 && c.thrNom == 900#16 && n == 4
        | _ => false) = true := by decide
/-- CAL-1, end of pass 3: `on = (10 + 58) div 2 = 34`. -/
theorem test_cal_settles :
    gives (step { calAt (.search (.settle 10#16)) with pwmOn := 58#16, pwmTop := 496#16 })
      (fun t => t.pwmOn == 34#16 && t.pwmTop == 496#16) = true := by decide
/-- MUX-BCD-2. -/
theorem test_bcd_blank : runs rcReset 0x1000000F (fun t => t.res == 15#16 && t.bcd == 0b1111#4) = true := by decide
/-- MUX-BCD-3. -/
theorem test_bcd_illegal : runs rcReset 0x1000000A (fun t => t == { rcReset with err := true }) = true := by decide
/-- MUX-WL-1. -/
theorem test_wrlive : runs rcReset 0x11050002 (fun t => t.live == #v[15#4, 15#4, 15#4, 15#4, 15#4, 2#4]) = true := by decide
/-- MUX-WM-1. -/
theorem test_wrmask : runs rcReset 0x12000031 (fun t => t.mask == 0x31#6) = true := by decide
/-- MUX-WD-1. -/
theorem test_wrdwell_low :
    runs rcReset 0x13020064 (fun t => t.dwell == #v[1000#16, 1000#16, 500#16, 1000#16, 1000#16, 1000#16]) = true := by decide
/-- MUX-WD-2. -/
theorem test_wrdwell_high : runs rcReset 0x1302FFFF (fun t => t.dwell[2] == 2000#16) = true := by decide
/-- MUX-ST-2. -/
theorem test_showtime :
    runs rcReset 0x14090507
      (fun t => t.live == #v[7#4, 0#4, 5#4, 0#4, 9#4, 0#4] && t.sec == 7#8 && t.mask == 0b011111#6) = true := by decide
/-- MUX-ST-5. -/
theorem test_showtime_editing :
    runs { rcReset with ui := .editMinutes, mask := 0b111100#6 } 0x14090507 (fun t => t.mask == 0b111100#6) = true := by decide
/-- MUX-R-2. -/
theorem test_render_dark :
    runs { rcReset with mask := 0#6, gate := true } 0x15000000 (fun t => t.gate && t.seq == .idle) = true := by decide
/-- SM-2. -/
theorem test_render_overlay :
    runs { rcReset with ui := .editMinutes, pend := ⟨24#7, 7#4, 15#5, 9#5, 41#6⟩ } 0x15000000
      (fun t => t.ovl == #v[15#4, 15#4, 1#4, 4#4, 9#4, 0#4] && t.mask == 0b111100#6 &&
        t.seq == .busy 0x15000000#32 (.render .ovl ⟨2, .selBcd⟩)) = true := by decide
/-- W8: the first burst is (5, 1, 0), and it lights position 5 alone. -/
theorem test_depoison_first_burst :
    gives (step (withPasses [1] (seqAt (.busy 0x20000005#32 (.depoison ⟨5#16, rcReset.live⟩ (.burst 5 1 0))))))
      (fun t => t.live == Vector.replicate 6 0#4 && t.mask == 0b100000#6) = true := by decide
/-- DP-1. -/
theorem test_depoison_zero :
    gives (step (seqAt (.busy 0x20000000#32 (.depoison ⟨0#16, #v[7#4, 0#4, 5#4, 0#4, 9#4, 0#4]⟩ .restore))))
      (fun t => t.live == #v[7#4, 0#4, 5#4, 0#4, 9#4, 0#4] && t.mask == 0x3F#6 && t.seq == .idle) = true := by decide
/-- W7, the first STEP. -/
theorem test_fault_blocking :
    runs rcReset 0x21000001
      (fun t => t.live[5] == 9#4 && t.live[4] == 9#4 && t.live[0] == 0#4 && t.halted && isHalted t.seq) = true := by decide
/-- FT-3. -/
theorem test_fault_illegal : runs rcReset 0x210A0000 (fun t => t == { rcReset with err := true }) = true := by decide
/-- SM-1. -/
theorem test_btnmode_loads :
    runs (withClock july15 rcReset) 0x30000000
      (fun t => t.pend == ⟨24#7, 7#4, 15#5, 9#5, 41#6⟩ && t.ui == .editMinutes) = true := by decide
/-- SM-7. -/
theorem test_btnmode_commits :
    runs { rcReset with ui := .editDay, pend := ⟨24#7, 2#4, 1#5, 0#5, 0#6⟩ } 0x30000000
      (fun t => t.log == [⟨24#7, 2#4, 1#5, 0#5, 0#6, 0#6⟩] && t.sec == 60#8 && t.mask == 0x3F#6 && t.ui == .idle) = true := by
  decide
/-- SM-6. -/
theorem test_btnadj_day :
    runs { rcReset with ui := .editDay, pend := ⟨24#7, 4#4, 31#5, 0#5, 0#6⟩ } 0x31000000 (fun t => t.pend.day == 1#5) = true := by
  decide
/-- SM-8. -/
theorem test_btnadj_date :
    runs (withClock july15 rcReset) 0x31000000
      (fun t => t.ovl == #v[5#4, 1#4, 7#4, 0#4, 4#4, 2#4] && t.mask == 0x3F#6 && t.ui == .showingDate) = true := by decide
/-- RD-3. -/
theorem test_rdreg_acc :
    (runs { rcReset with acc := 700125#32 } 0x400A0000 (fun t => t.res == 44765#16) &&
      runs { rcReset with acc := 700125#32 } 0x400B0000 (fun t => t.res == 10#16)) = true := by decide
/-- P2, word 11: HVLIFE 1, UI 5. -/
theorem test_rdreg_status :
    runs { rcReset with hvlife := .steady, ui := .editDay } 0x40000000 (fun t => t.res == 0x00A8#16) = true := by decide

/-! ## The tick, a pass, and the assembler -/

/-- TK-1, TK-2, TK-3. -/
theorem test_tick :
    ([(59, 60, 0), (255, 0, 0), (60, 61, 1)].all fun (a, b, d) =>
      gives (step { rcReset with sec := BitVec.ofNat 8 a, tickPending := 1 })
        (fun t => t.sec.toNat == b && t.live[0].toNat == d && t.live[1].toNat == 0 && t.tickPending == 0)) = true := by decide
/-- TK-4. -/
theorem test_tick_in_pass :
    gives (step { seqAt (.busy 0x15000000#32 (.render .live ⟨0, .dwell 7#16⟩)) with
        sec := 7#8, anode := 1#6, gate := true, tickPending := 1 })
      (fun t => t.sec == 8#8 && t.live[0] == 8#4 && t.anode == 1#6 &&
        t.seq == .busy 0x15000000#32 (.render .live ⟨0, .dwell 7#16⟩)) = true := by decide
/-- MUX-R-1: GAP of position 0 with position 1 lit. -/
theorem test_gap :
    gives (step { seqAt (.busy 0x15000000#32 (.render .live ⟨0, .gap⟩)) with mask := 0b000011#6, anode := 1#6, gate := true })
      (fun t => t.anode == 0#6 && !t.gate && t.seq == .busy 0x15000000#32 (.render .live ⟨1, .selBcd⟩)) = true := by decide
/-- R66, R67: forms of the syntax, and an operand that does not fit. -/
theorem test_assemble :
    assemble "SHOWTIME 23, 59, 59 ; full read".toList = some 0x14173B3B#32 ∧
    assemble "WRLIVE 5, BLANK".toList = some 0x1105000F#32 ∧ assemble "RDREG 0x04".toList = some 0x40040000#32 ∧
    assemble "BLANK 3".toList = some 0x1103000F#32 ∧ assemble "WRLIVE 6, 0".toList = some 0x11060000#32 ∧
    assemble "SETTGT 256".toList = none := by decide

/-! ## Witnesses: for each obligation with hypotheses, a state and operands that meet them together, clause by clause -/

theorem rc_valid : Config.rc.Valid := by decide

theorem rc_pwm : PwmInRange rcReset := by simp only [PwmInRange]; decide

theorem rc_acc : AccOk rcReset := by simp only [AccOk]; decide

theorem witness_EncodeReturnsTheDecodedWord : decode 0x1105000F#32 = some (.wrlive 5#8 15#4) := by decide

theorem witness_DecoderFollowsTheMaskTable :
    decode 0x40FF0000#32 = some (.rdreg 0xFF#8) ∧ opcodeRows[19]? = some ⟨0xFF00FFFF#32, 0x40000000#32⟩ ∧
    OpcodeRow.spells ⟨0xFF00FFFF#32, 0x40000000#32⟩ 0x40FF0000#32 = true := by decide

/-- At the decode step, in the middle of a pass, and in Idle with the port taken. -/
theorem witness_StepRunsTheDecodedCommand :
    decode 0x01000000#32 = some .hven ∧
    (let s := seqAt (.busy 0x01000000#32 .start); s.tickPending = 0 ∧ s.env.upcoming = none) ∧
    (let s := rcReset.withFetchWord 32 0x01000000
     s.seq = .busy 0x01000000#32 .start ∧ s.tickPending = 0 ∧ s.env.inputs = [.run]) ∧
    (withInputs [.offer 1#32] (seqAt (.busy 0x01000000#32 .start))).env.upcoming = some (.offer 1#32) ∧
    (withInputs [.startTick] (seqAt (.busy 0x01000000#32 .start))).env.upcoming = some .startTick ∧
    (let s := withInputs [.run, .offer 1#32] (seqAt (.busy 0x15000000#32 (.render .live ⟨0, .dwell 7#16⟩)))
     s.env.inputs = [.run, .offer 1#32] ∧ s.seq ≠ .idle ∧
       gives (step s) (fun t => t.env.inputs == [.offer 1#32] &&
         t.seq == .busy 0x15000000#32 (.render .live ⟨0, .dwell 6#16⟩)) = true) ∧
    (let s := withInputs [.startTick] { rcReset with cmdIn := some 0x01000000#32 }
     s.cmdIn ≠ none ∧ s.env.upcoming = some .startTick) := by decide

theorem witness_AcceptanceHappensInIdle :
    Alone rcReset ∧ rcReset.seq = .idle ∧ rcReset.cmdIn = none ∧
    Alone { rcReset with cmdIn := some 0x01000000#32 } := ⟨⟨.inl rfl, rfl⟩, rfl, rfl, .inl rfl, rfl⟩

/-- A word that waits, offers that come too early and in time, an edge before and after the signal is started, and its
start. -/
theorem witness_OffersAndEdgesWait :
    (let s := withInputs [.offer 0#32] { seqAt (.busy 0x01000000#32 .start) with cmdIn := some 0x02000000#32 }
     s.seq ≠ .idle ∧ s.env.upcoming = some (.offer 0#32) ∧ s.env.upcoming ≠ some .reset ∧
       gives (step s) (fun t => t.env.inputs == [.offer 0#32] && t.gate) = true) ∧
    (let s := withInputs [.offer 0#32] { rcReset with cmdIn := some 0x02000000#32 }
     s.cmdIn ≠ none ∧ s.env.upcoming = some (.offer 0#32) ∧ gives (step s) (fun t => t.env.inputs == [.offer 0#32]) = true) ∧
    (let s := withInputs [.offer 0#32] rcReset; s.cmdIn = none ∧ s.seq = .idle ∧ s.env.upcoming = some (.offer 0#32)) ∧
    (let e := (withInputs [.run, .tick] rcReset).env; e.inputs = [.run, .tick]) ∧
    (let e := { rcReset.env with onward := .free }; e.inputs = [] ∧ e.onward = .free) ∧
    (withInputs [.tick] rcReset).env.upcoming = some .tick ∧ (withInputs [.tick] rcReset).env.tickOn = false ∧
    (tickStarts (withInputs [.tick] rcReset)).env.tickOn = true ∧
    (withInputs [.startTick] rcReset).env.upcoming = some .startTick := by decide

/-- The first move of a boot, from reset, keeps the host's duties. -/
theorem witness_OffersAndEdgesWait_duties (h : Config.HostParams) :
    let s := withInputs [.offer 0x050000B4#32] rcReset
    KeepsDuties h (0 + 1) [.offer 0x050000B4#32] s ∧ s.env.tickOn = false ∧ s.tickPending = 0 ∧ ∃ t, step s = .next t :=
  ⟨⟨[], .inl rfl, fun _ _ => trivial⟩, rfl, rfl, _, rfl⟩

/-- R126: FAULT 3, 1 and SHOWTIME 24, 0, 0 break a duty; FAULT 0, 1 does not; and no word but its own comes before a boot
move. -/
theorem test_duties :
    ¬ DutifulWord 0x21030001#32 ∧ ¬ DutifulWord 0x14180000#32 ∧ DutifulWord 0x21000001#32 ∧
    ¬ DutifulMove (.offer 0x15000000#32) [.offer 0x050000B4#32] [] := by
  refine ⟨?_, ?_, ⟨?_, ?_⟩, ?_⟩
  · intro h; exact absurd (h.2 3#8 (by decide)) (by decide)
  · intro h
    obtain ⟨a, ha, he⟩ := h.1 24#8 0#8 0#8 (by decide)
    simp only [showtimeOf, Instr.showtime.injEq, ← BitVec.toNat_inj, BitVec.toNat_ofNat] at he
    simp only [Config.ClockAnswer.InRange] at ha
    omega
  · intro a b c h
    exact absurd h (by rw [show decode 0x21000001#32 = some (.fault 0#8 true) by decide]; simp)
  · intro c h
    rw [show decode 0x21000001#32 = some (.fault 0#8 true) by decide] at h
    simp only [Option.some.injEq, Instr.fault.injEq] at h
    rw [← h.1]; decide
  · rintro (h | ⟨h, -⟩)
    · simp at h
    · simp at h

theorem witness_HaltedLeavesOnlyByReset :
    (seqAt (.halted (.mark .off 4))).seq = .halted (.mark .off 4) ∧ NoReset (seqAt (.halted (.mark .off 4))) ∧
    ∃ t, step (seqAt (.halted (.mark .off 4))) = .next t :=
  ⟨rfl, by simp only [NoReset]; decide, _, rfl⟩

theorem witness_ResetGivesTheListedValues : Config.rc.Valid := rc_valid

theorem witness_ResetInputAbandonsEverything :
    (withInputs [.reset] (seqAt (.halted (.mark .on 1)))).env.upcoming = some .reset := rfl

theorem witness_IllegalWordSetsErrAlone :
    Alone (seqAt (.busy 0xFFFFFFFF#32 .start)) ∧ decode 0xFFFFFFFF#32 = none ∧
    Alone (seqAt (.busy 0x11060000#32 .start)) ∧ decode 0x11060000#32 = some (.wrlive 6#8 0#4) ∧
    (Instr.wrlive 6#8 0#4).wellFormed = false := ⟨⟨.inl rfl, rfl⟩, by decide, ⟨.inl rfl, rfl⟩, by decide, by decide⟩

theorem witness_ExecRaisesExactlyWhenIllFormed :
    (Instr.wrlive 6#8 0#4).wellFormed = false ∧ (Instr.wrlive 5#8 9#4).wellFormed = true ∧
    ∃ t, exec (.wrlive 5#8 9#4) rcReset = .next t := ⟨by decide, by decide, exec_next _ _⟩

theorem witness_ErrChangesOnlyInTheDecodeStep :
    NoReset (seqAt (.busy 0#32 .start)) ∧ step (seqAt (.busy 0#32 .start)) = .next { rcReset with err := true } ∧
    ({ rcReset with err := true } : State).err ≠ (seqAt (.busy 0#32 .start)).err ∧
    NoReset { rcReset with err := true } ∧ step { rcReset with err := true } = .next { rcReset with err := true } :=
  ⟨by simp only [NoReset]; decide, rfl, by decide,
    by simp only [NoReset]; decide, rfl⟩

/-- An edge pending alone, with a `run` input next, and while an offer waits. -/
theorem witness_TickHandlerCountsTheSecond :
    (let s := { rcReset with sec := 255#8, tickPending := 1 }; s.env.upcoming = none ∧ s.tickPending = 0 + 1) ∧
    (let s := withInputs [.run] { seqAt (.halted (.mark .on 1)) with tickPending := 2 }
     s.env.inputs = [.run] ∧ s.tickPending = 1 + 1 ∧ gives (step s) (fun t => t.tickPending == 1 && t.sec == 1#8) = true) ∧
    (let s := withInputs [.offer 0#32] { seqAt (.busy 0x01000000#32 .start) with tickPending := 1 }
     HostWaits s ∧ s.tickPending = 0 + 1 ∧ gives (step s) (fun t => t.env.inputs == [.offer 0#32] && t.sec == 1#8) = true) := by
  simp only [HostWaits]; decide

theorem witness_HvenAndHvdisSwitchTheGate :
    rcReset.hvlife = .disabled ∧ ({ rcReset with hvlife := .calibrating } : State).hvlife ≠ .disabled := by decide

theorem witness_SetonClampsAndRaisesThePeriod : rcReset.cfg.Valid := rc_valid

theorem witness_SettopClampsAboveThePulse : rcReset.cfg.Valid ∧ PwmInRange rcReset := ⟨rc_valid, rc_pwm⟩

theorem witness_SetonAndSettopAreIdempotent :
    rcReset.cfg.Valid ∧ (∃ t, exec (.seton 65535#16) rcReset = .next t) ∧ ∃ t, exec (.settop 0#16) rcReset = .next t :=
  ⟨rc_valid, ⟨_, rfl⟩, _, rfl⟩

/-- HV-ORD-2: the greatest gap to the old pulse width, where the two orders differ. -/
theorem witness_SetonSettopOrderMatters :
    rcReset.cfg.Valid ∧ PwmInRange { rcReset with pwmOn := 300#16, pwmTop := 320#16 } := by
  simp only [PwmInRange]; decide

theorem witness_SampleFoldsOneReading :
    (let s := withAdc [1023] rcReset
     s.cfg.Valid ∧ s.seeded = false ∧ s.env.adc = [1023] ∧ 1023 ≤ 2 ^ s.cfg.adcBits - 1) ∧
    AccOk (withAdc [1023] rcReset) ∧ AccOk { rcReset with acc := 818400#32, seeded := true } := by
  simp only [AccOk]; decide

theorem witness_SampleMovesTowardTheInput :
    AccOk { rcReset with acc := 700000#32, seeded := true } ∧
    ([875, 1023, 0].map fun r => adcDraw (withAdc [r] { rcReset with acc := 700000#32, seeded := true })) = [875, 1023, 0] ∧
    (700000#32).toNat / 800 = 875 ∧
    ∃ t, exec .sample (withAdc [875] { rcReset with acc := 700000#32, seeded := true }) = .next t := by
  refine ⟨?_, ?_, ?_, _, rfl⟩
  · simp only [AccOk]; decide
  · decide
  · decide

theorem witness_RegstepMovesThePeriod :
    rcReset.cfg.Valid ∧ AccOk rcReset ∧ PwmInRange rcReset ∧ rcReset.seeded = false ∧
    (let s := { rcReset with acc := 818400#32, seeded := true }; AccOk s ∧ PwmInRange s ∧ s.seeded = true) := by
  simp only [AccOk, PwmInRange]; decide

theorem witness_CalStartsEachPass :
    rcReset.cfg.Valid ∧ 0 < rcReset.cfg.calP1Iters ∧ 0 < rcReset.cfg.calP4Iters ∧
    (let c := { Config.rc with calP1Iters := 0, calP4Iters := 0 }; c.Valid) ∧
    PwmInRange (calAt (.search .begin2)) ∧ Alone (calAt (.search .begin2)) ∧ Alone (calAt (.search .begin3)) ∧
    Alone (calAt (.search (.settle 10#16))) := by
  simp only [PwmInRange, Alone, HostWaits]; decide

/-- The last STEP, one in the middle, a content STEP that lights nothing and one that lights position 5, and the GAP of the
last lit position. -/
theorem witness_CalRestoresTheDisplay :
    (calAt (.search .restore)).seq = .busy 0x09000000#32 (.cal calCtx (.search .restore)) ∧
    Alone (calAt (.search .restore)) ∧ (∃ t, step (calAt (.search .restore)) = .next t) ∧
    Alone (calAt (.search .begin2)) ∧ (∃ t, step (calAt (.search .begin2)) = .next t) ∧
    Alone (calAt (.content 1 .begin3)) ∧
    FrameOk #v[0#4, 1#4, 2#4, 3#4, 9#4, 15#4] ∧
    (∀ q : Position, 5 < q → (calAt (.pass 1 ⟨5, .gap⟩ .begin3)).mask.getLsbD q.val = false) ∧
    (∀ r : Position, r < 5 → (0b100000#6).getLsbD r.val = false) :=
  ⟨rfl, ⟨.inl rfl, rfl⟩, ⟨_, rfl⟩, ⟨.inl rfl, rfl⟩, ⟨_, rfl⟩, ⟨.inl rfl, rfl⟩, by simp only [FrameOk]; decide, by decide, by decide⟩

/-- R80: the content STEP of CalDisplay takes the digits and the mask queued. -/
theorem test_cal_content :
    gives (step ((calAt (.content 2 .begin3)).withEnv
        { Env.silent with digits := [0#4, 1#4, 2#4, 3#4, 9#4, 15#4, 7#4], masks := [0b000100#6] }))
      (fun t => t.live == #v[0#4, 1#4, 2#4, 3#4, 9#4, 15#4] && t.mask == 0b000100#6 && t.env.digits == [7#4] &&
        t.seq == .busy 0x09000000#32 (.cal calCtx (.pass 2 ⟨2, .selBcd⟩ .begin3))) = true := by decide

/-- At the 8th reading, with the pulse width at its greatest value; with no display pass drawn, and with one. -/
theorem witness_CalPassTwoRaisesThePulse :
    (let s := { withAdc [899] (calAt (.search (.sample2 7))) with pwmOn := 400#16 }
     s.cfg.Valid ∧ s.seq = .busy 0x09000000#32 (.cal calCtx (.search (.sample2 7)))) ∧
    PwmInRange { withAdc [899] (calAt (.search (.sample2 7))) with pwmOn := 400#16 } ∧
    Alone { withAdc [899] (calAt (.search (.sample2 7))) with pwmOn := 400#16 } ∧
    reading (sampleSmoothed (withAdc [899] (calAt (.search (.sample2 7))))) = 899 ∧
    reading (sampleSmoothed (withAdc [900] (calAt (.search (.sample2 7))))) = 900 ∧
    passesDraw 0 (popAdc (withPasses [0] (calAt (.search (.sample2 7))))) = 0 ∧
    passesDraw 0 (popAdc (withPasses [1] (calAt (.search (.sample2 7))))) = 0 + 1 := by
  simp only [PwmInRange, Alone, HostWaits]; decide

/-- At the 8th reading, with the pulse width at its least value; the last iteration of passes 1 and 4, and one before it. -/
theorem witness_CalPassThreeLowersThePulse :
    (let s := { withAdc [901] (calAt (.search (.sample3 10#16 7))) with pwmOn := 10#16 }
     s.cfg.Valid ∧ s.seq = .busy 0x09000000#32 (.cal calCtx (.search (.sample3 10#16 7)))) ∧
    PwmInRange { withAdc [901] (calAt (.search (.sample3 10#16 7))) with pwmOn := 10#16 } ∧
    Alone { withAdc [901] (calAt (.search (.sample3 10#16 7))) with pwmOn := 10#16 } ∧
    reading (sampleSmoothed (withAdc [901] (calAt (.search (.sample3 10#16 7))))) = 901 ∧
    reading (sampleSmoothed (withAdc [900] (calAt (.search (.sample3 10#16 7))))) = 900 ∧
    passesDraw 0 (popAdc (withPasses [0] (calAt (.search (.sample3 10#16 7))))) = 0 ∧
    passesDraw 0 (popAdc (withPasses [1] (calAt (.search (.sample3 10#16 7))))) = 0 + 1 ∧
    (calAt (.search (.regulate1 1))).seq = .busy 0x09000000#32 (.cal calCtx (.search (.regulate1 1))) ∧
    CalStep.begin2 = (if 1 ≤ 1 then .begin2 else .regulate1 (1 - 1)) ∧
    CalStep.regulate4 10#16 58#16 1 = (if 2 ≤ 1 then .restore else .regulate4 10#16 58#16 (2 - 1)) := by
  simp only [PwmInRange, Alone, HostWaits]; decide

/-- The nominal threshold one count out of reach. -/
theorem witness_CalPassTwoCanHang :
    (let c := { calCtx with thrNom := 1024#16 }
     let s := seqAt (.busy 0x09000000#32 (.cal c (.search (.sample2 0))))
     s.cfg.Valid ∧ AccOk s ∧ inPass2 s.seq c ∧ 2 ^ s.cfg.adcBits - 1 < c.thrNom.toNat ∧ NoReset s ∧ ∃ t, step s = .next t) :=
  ⟨rc_valid, rc_acc, ⟨_, _, .inl rfl⟩, by decide, by simp only [NoReset]; decide, by
    simp only [step, machineStep, seqAt, rcReset, State.resetOf, Env.silent, coreStep, seqStep, busyStep, if_true]
    exact ⟨_, rfl⟩⟩

theorem witness_PwmConductsForThePulseWidth :
    PwmInRange rcReset ∧ rcReset.gate = false ∧ PwmInRange { rcReset with gate := true } ∧ 500 ≤ rcReset.pwmTop.toNat ∧
    (let o : Observed := ⟨rcReset, ⟨499, true, 50#16, 500#16⟩⟩
     o.timer.count < o.timer.top.toNat ∧ o.timer.gate = true ∧ o.core.gate = false) ∧
    (let o : Observed := ⟨rcReset, ⟨500, false, 50#16, 500#16⟩⟩
     o.timer.top.toNat ≤ o.timer.count ∧ o.timer.gate = false ∧ o.core.gate = false) ∧
    ∃ t, step rcReset = .next t ∧ t.gate = false := by
  refine ⟨rc_pwm, rfl, rc_pwm, ?_, ?_, ?_, _, rfl, rfl⟩ <;> decide

/-- D16: a gate that closes and opens again within a period ends its pulse; the next period conducts again. -/
theorem test_pwm_gate_toggles :
    (let o : Observed := ⟨{ seqAt (.busy 0x02000000#32 .start) with gate := true }, ⟨3, true, 50#16, 4#16⟩⟩
     let o1 := observe .step o
     let o2 := observe .step { o1 with core := { o1.core with seq := .busy 0x01000000#32 .start } }
     o.output && !o1.output && o2.core.gate && !o2.output &&
       !(observe .clock o2).output && (observe .clock (observe .clock o2)).output) = true := by
  decide

/-- R68: a SETON 20 in the middle of a period is not seen at count 30 or 31 of a pulse of 50 (no glitch); the next period
takes up 20. -/
theorem test_pwm_seton_waits_for_the_period :
    (let o : Observed := ⟨{ seqAt (.busy 0x03000014#32 .start) with gate := true }, ⟨30, true, 50#16, 31#16⟩⟩
     let o1 := observe .step o
     let o2 := observe .clock o1
     let o3 := observe .clock o2
     o.output && o1.core.pwmOn == 20#16 && o1.output && o2.output && o3.timer == ⟨0, true, 20#16, 500#16⟩ &&
       o3.output) = true := by
  decide

/-- R68: a start whose timer is open beside a closed core drives nothing, and HVEN opens it at the next period only. -/
theorem test_pwm_closed_start_is_held_off :
    (let o : Observed := ⟨seqAt (.busy 0x01000000#32 .start), ⟨3, true, 50#16, 4#16⟩⟩
     let o1 := observe .step o
     !o.output && o1.core.gate && !o1.output && !(observe .clock o1).output &&
       (observe .clock (observe .clock o1)).output) = true := by
  decide

theorem witness_BcdReportsAndWrmaskWrites :
    ((0#4).toNat ≤ 9 ∧ (9#4).toNat ≤ 9 ∧ (15#4).toNat = 15) ∧ 10 ≤ (10#4).toNat ∧ (10#4).toNat ≤ 14 ∧ 10 ≤ (14#4).toNat ∧
    (14#4).toNat ≤ 14 := by decide

theorem witness_WrliveWritesOneDigit :
    (9#4).toNat ≤ 9 ∧ (0 : Position) ≠ 5 ∧ 5 < (6#8).toNat ∧ 10 ≤ (10#4).toNat ∧ (14#4).toNat ≤ 14 ∧
    (0x11000010#32).extractLsb' 24 8 = 0x11#8 ∧ (0x11000010#32).extractLsb' 4 12 ≠ 0#12 := by decide

theorem witness_WrdwellClampsTheCount : (0 : Position) ≠ 5 ∧ 5 < (6#8).toNat := by decide

theorem witness_ShowtimeShowsTheTime :
    ((23#8).toNat ≤ 23 ∧ (59#8).toNat ≤ 59 ∧ rcReset.ui = .idle ∧ ({ rcReset with ui := .editDay } : State).ui ≠ .idle) ∧
    23 < (24#8).toNat ∧ 59 < (60#8).toNat := by decide

/-- Only position 5 on, and only position 0 on. -/
theorem witness_RenderInIdleShowsLive :
    rcReset.ui = .idle ∧ ({ rcReset with mask := 0#6 } : State).mask = 0#6 ∧
    ((0b100000#6).getLsbD (5 : Position).val = true ∧ ∀ q : Position, q < 5 → (0b100000#6).getLsbD q.val = false) ∧
    (0b000001#6).getLsbD (0 : Position).val = true ∧ ∀ q : Position, q < 0 → (0b000001#6).getLsbD q.val = false := by decide

theorem witness_RenderOverlayRefreshes :
    [Ui.editMinutes, .editHours, .editYear, .editMonth, .editDay, .showingDate].all (fun u => decide (u ≠ .idle)) = true := by
  decide

/-- The least dwell left at SEL_ON and DWELL; a GAP with a lit position above it and one without; a pass of each kind. -/
theorem witness_PassStepsDriveOnePosition :
    Alone (seqAt (.busy 0x15000000#32 (.render .live ⟨0, .selBcd⟩))) ∧
    passOf (.busy 0x20000001#32 (.depoison ⟨1#16, rcReset.live⟩ (.pass 0 1 9 1 ⟨0, .selBcd⟩))) = some ⟨0, .selBcd⟩ ∧
    passOf (.halted (.pass .on 1 2 ⟨0, .selOn 0#16⟩)) = some ⟨0, .selOn 0#16⟩ ∧
    passOf (.busy 0x21030000#32 (.fault (.pass .on 1 2 ⟨5, .dwell 1#16⟩))) = some ⟨5, .dwell 1#16⟩ ∧
    passOf (.busy 0x09000000#32 (.cal calCtx (.pass 1 ⟨0, .gap⟩ .begin3))) = some ⟨0, .gap⟩ ∧
    Alone (seqAt (.busy 0x15000000#32 (.render .ovl ⟨5, .gap⟩))) ∧
    ((0 : Position) < 5 ∧ (0b100001#6).getLsbD (5 : Position).val = true ∧
      ∀ r : Position, 0 < r → r < 5 → (0b100001#6).getLsbD r.val = false) ∧
    ∀ q : Position, 5 < q → (0b100001#6).getLsbD q.val = false := by
  simp only [Alone, HostWaits]; decide

/-- R97: the ON pass of a blocking report goes on from position 0 to position 4. -/
theorem test_gap_halted :
    gives (step { seqAt (.halted (.pass .on 2 3 ⟨0, .gap⟩)) with mask := 0b110001#6, anode := 1#6, gate := true })
      (fun t => t.anode == 0#6 && !t.gate && t.seq == .halted (.pass .on 2 3 ⟨4, .selBcd⟩)) = true := by decide

/-- Only position 0 on; all six on. -/
theorem witness_RenderEndsAfterItsDwell :
    (let s := { seqAt (.busy 0x15000000#32 .start) with mask := 0b000001#6 }
     s.env.upcoming = none ∧ s.tickPending = 0 ∧ s.ui = .idle ∧ s.mask.getLsbD (0 : Position).val = true ∧
       (∀ q : Position, 0 < q → s.mask.getLsbD q.val = false) ∧ passLength s = 1003) ∧
    passLength (seqAt (.busy 0x15000000#32 .start)) = 6018 := by decide

theorem witness_AnodeIsWrittenByPassesAlone :
    (let s := seqAt (.busy 0x15000000#32 (.render .live ⟨5, .selOn 500#16⟩))
     ∃ t, NoReset s ∧ step s = .next t ∧ t.anode ≠ s.anode) :=
  ⟨_, by simp only [NoReset]; decide, rfl, by decide⟩

theorem witness_DepoisonSavesBurstsAndRestores :
    Alone (seqAt (.busy 0x20000001#32 (.depoison ⟨1#16, rcReset.live⟩ (.burst 0 1 9)))) ∧ 9 ≤ 9 ∧
    (withPasses [1] rcReset).env.passes = [1] ∧
    Alone (seqAt (.busy 0x20000001#32 (.depoison ⟨1#16, rcReset.live⟩ .restore))) :=
  ⟨⟨.inl rfl, rfl⟩, by decide, rfl, .inl rfl, rfl⟩

/-- The last digit of the last repeat at position 0, and a pass that is not the last. -/
theorem witness_DepoisonRunsSixtyBurstsPerRepeat :
    (let c : DepoisonCtx := ⟨5#16, rcReset.live⟩
     let s := { seqAt (.busy 0x20000005#32 (.depoison c (.pass 0 5 9 1 ⟨0, .gap⟩))) with mask := 0b000001#6 }
     s.env.upcoming = none ∧ s.tickPending = 0 ∧ 1 ≤ 5 ∧ 5 ≤ c.rep.toNat ∧ 9 ≤ 9 ∧
       (∀ q : Position, 0 < q → s.mask.getLsbD q.val = false) ∧ s.mask.getLsbD (0 : Position).val = true ∧
       ∀ q' : Position, q' < 0 → s.mask.getLsbD q'.val = false) ∧ 2 ≤ 2 := by decide

/-- R94: after digit 9 of the last repeat at position 5 comes the burst (4, 1, 0). -/
theorem test_depoison_next_position :
    gives (step { seqAt (.busy 0x20000002#32 (.depoison ⟨2#16, rcReset.live⟩ (.pass 5 2 9 1 ⟨5, .gap⟩))) with
        mask := 0b100000#6 })
      (fun t => t.seq == .busy 0x20000002#32 (.depoison ⟨2#16, rcReset.live⟩ (.burst 4 1 0))) = true := by decide

theorem witness_DepoisonEndsAndRestoresLive :
    Alone (seqAt (.busy (encode (.depoison 1#16)) .start)) ∧
    (seqAt (.busy (encode (.depoison 0#16)) .start)).seq = .busy (encode (.depoison 0#16)) .start ∧ 1 ≤ (1#16).toNat :=
  ⟨⟨.inl rfl, rfl⟩, rfl, by decide⟩

theorem witness_FaultShowsThePattern :
    (9#8).toNat ≤ 9 ∧ 9 < (10#8).toNat ∧ (withDigits [0#4, 9#4, 15#4] rcReset).env.digits = [0#4, 9#4, 15#4] ∧
    [0#4, 9#4, 15#4].all isDigitValue = true := by decide

/-- The third and the fourth cycle, in both forms; the last GAP of an ON pass. -/
theorem witness_FaultBlinksFourCycles :
    Alone (seqAt (.busy 0x21030000#32 (.fault (.mark .on 4)))) ∧ Alone (seqAt (.busy 0x21030000#32 (.fault (.mark .off 3)))) ∧
    Alone (seqAt (.busy 0x21030000#32 (.fault (.mark .off 4)))) ∧ Alone (seqAt (.halted (.mark .on 1))) ∧
    Alone (seqAt (.halted (.mark .off 3))) ∧ Alone (seqAt (.halted (.mark .off 4))) ∧
    Alone (seqAt (.halted (.pass .on 4 1 ⟨5, .gap⟩))) ∧
    ((∀ p : Position, 5 < p → (0b110001#6).getLsbD p.val = false) ∧ 2 ≤ 2 ∧ (0b110001#6).getLsbD (0 : Position).val = true ∧
      ∀ p' : Position, p' < 0 → (0b110001#6).getLsbD p'.val = false) ∧
    Alone (seqAt (.busy 0x21030000#32 .faultEnd)) :=
  ⟨⟨.inl rfl, rfl⟩, ⟨.inl rfl, rfl⟩, ⟨.inl rfl, rfl⟩, ⟨.inl rfl, rfl⟩, ⟨.inl rfl, rfl⟩, ⟨.inl rfl, rfl⟩, ⟨.inl rfl, rfl⟩, by decide, .inl rfl, rfl⟩

theorem witness_NonBlockingFaultEnds :
    Alone (seqAt (.busy (encode (.fault 9#8 false)) .start)) ∧ (9#8).toNat ≤ 9 := ⟨⟨.inl rfl, rfl⟩, by decide⟩

theorem witness_BtnmodeWalksTheEditStates :
    (july15.InRange ∧ (withClock july15 rcReset).env.clocks = [july15]) ∧
    [Ui.idle, .editMinutes, .editHours, .editYear, .editMonth, .editDay, .showingDate].map
      (fun u => ({ rcReset with ui := u } : State).ui) =
      [Ui.idle, .editMinutes, .editHours, .editYear, .editMonth, .editDay, .showingDate] := by decide

theorem witness_BtnadjEditsOneField :
    (july15.InRange ∧ (withClock july15 rcReset).env.clocks = [july15]) ∧
    rcReset.ui = .idle ∧
    [Ui.editMinutes, .editHours, .editYear, .editMonth, .editDay].all
      (fun u => decide (u ≠ .idle) && decide (u ≠ .showingDate)) = true ∧
    ({ rcReset with ui := .showingDate } : State).ui = .showingDate := by decide

/-- The last day of February, and a day left over from a longer month. -/
theorem witness_DayEditStaysInTheMonth :
    PendOk ⟨24#7, 2#4, 29#5, 0#5, 0#6⟩ ∧ PendOk ⟨99#7, 12#4, 31#5, 23#5, 59#6⟩ ∧
    ∃ t, exec .btnadj { rcReset with ui := .editDay, pend := ⟨24#7, 2#4, 29#5, 0#5, 0#6⟩ } = .next t := by
  refine ⟨?_, ?_, _, rfl⟩ <;> simp only [PendOk] <;> decide

theorem witness_LeavingDateModeRestoresTheBlanking :
    (let s := { rcReset with ui := .showingDate, live := #v[0#4, 0#4, 0#4, 0#4, 3#4, 2#4] }
     23 ≤ 23 ∧ s.ui = .showingDate ∧ s.live[5].toNat = 23 / 10 ∧ s.live[4].toNat = 23 % 10) ∧
    (let s := { rcReset with ui := .showingDate, live := Vector.replicate 6 0#4 }
     s.live[5].toNat = 0 / 10 ∧ s.live[4].toNat = 0 % 10) := by decide

theorem witness_SetModeNeverWritesLive :
    (∃ t, exec .btnmode rcReset = .next t) ∧ (∃ t, exec .btnadj rcReset = .next t) ∧
    ({ rcReset with ui := .editDay } : State).ui ≠ .idle ∧ ∃ t, exec .render { rcReset with ui := .editDay } = .next t :=
  ⟨exec_next _ _, exec_next _ _, by decide, exec_next _ _⟩

theorem witness_RdregReadsTheMap :
    [0x0C#8, 0x0F#8, 0x16#8, 0x1E#8, 0x26#8, 0x2D#8, 0xFF#8].all (fun x => !(Instr.rdreg x).wellFormed) = true := by decide

/-- The host's parameters with everything that is OPEN at some value. -/
def someHost : Config.HostParams := ⟨9, ⟨2024, 1, 1, 0, 0, 0, 1⟩, 2000, true, 0, 1#8, 0#8, false⟩

/-- A clock answer at 09:05:07. -/
def july15early : Config.ClockAnswer := ⟨2024, 7, 15, 9, 5, 7, 1⟩

theorem witness_BootReachesItsCleanState :
    Config.rc.Valid ∧ july15.InRange ∧ (⟨2024, 12, 31, 23, 59, 59, 0⟩ : Config.ClockAnswer).InRange ∧
    Config.targetMinV ≤ Config.rc.targetDefault ∧
    Config.rc.targetDefault ≤ Config.targetMaxV ∧ someHost.Valid := by decide

/-- R128: with the clock absent the boot is four words, the last one FAULT 0, 1; the signal starts after the fault checks;
and RDREG of `on` and `top` follows CAL. -/
theorem test_boot_order :
    bootOrder Config.rc someHost none none none [] .absent july15early true =
      [.offer 0x050000B4#32, .offer 0x03000032#32, .offer 0x040001F4#32, .offer 0x21000001#32] ∧
    bootOrder Config.rc someHost none none (some 169#8) [100#16] .powerLost july15early true =
      [.offer 0x050000B4#32, .offer 0x03000032#32, .offer 0x040001F4#32, .offer 0x04000064#32, .offer 0x21090000#32,
       .startTick, .offer 0x14090507#32, .offer 0x01000000#32, .offer 0x09000000#32, .offer 0x40010000#32,
       .offer 0x40020000#32] := by decide

theorem witness_PseudoInstructionsExpand : 2 ^ 16 ≤ 65536 := by decide

theorem witness_ResetMeetsTheInvariant : Config.rc.Valid := rc_valid

/-- A state in the middle of a pass, position 5 lit. -/
def litState : State :=
  { rcReset with seq := .busy 0x15000000#32 (.render .live ⟨5, .dwell 7#16⟩), anode := 0b100000#6, gate := true }

theorem litState_inv : Inv litState where
  cfg := rc_valid
  pwm := rc_pwm
  thr := by decide
  acc := rc_acc
  seed := by decide
  live := frameOk_replicate (by decide)
  ovl := frameOk_replicate (by decide)
  saved := by intro f h; cases h
  burst := by intro d h; cases h
  bcd := by decide
  dwell := by simp only [DwellOk]; decide
  pend := by simp only [PendOk]; decide
  log := by intro a h; cases h
  halted := by decide
  hvlife := by decide
  outputs := outputsOk_lit (k := ⟨5, .dwell 7#16⟩) rfl rfl rfl rfl (by decide)

theorem witness_EveryStepKeepsTheInvariant : Inv litState ∧ ∃ t, step litState = .next t := ⟨litState_inv, _, rfl⟩

theorem witness_AtMostOneAnodeIsLit :
    Inv litState ∧ litState.anode.getLsbD (5 : Position).val = true := ⟨litState_inv, by decide⟩

end Sys2Proof.Tests
end

section
/-! SUPPORT. Proofs of the family of 10_state.md. Frames of the operations in a first STEP, where a first STEP leaves
the sequencer, and one equation for each later STEP. -/

namespace Sys2Proof.Machine

open Sys2Proof.Safety

/-! ## Frames of the operations in a first STEP -/

theorem overlayRefresh_frame (s : State) :
    overlayRefresh s = { s with ovl := (overlayRefresh s).ovl, mask := (overlayRefresh s).mask } := by
  simp only [overlayRefresh]; split <;> rfl

theorem modeStep_frame (s : State) :
    modeStep s =
      { s with
        ui := (modeStep s).ui, pend := (modeStep s).pend, mask := (modeStep s).mask, sec := (modeStep s).sec
        log := (modeStep s).log, env := (modeStep s).env } := by
  simp only [modeStep]; split <;> rfl

theorem adjustStep_frame (s : State) :
    adjustStep s =
      { s with
        ui := (adjustStep s).ui, pend := (adjustStep s).pend, ovl := (adjustStep s).ovl
        mask := (adjustStep s).mask, env := (adjustStep s).env } := by
  simp only [adjustStep]; split <;> rfl

@[simp] theorem faultPattern_anode (code : BitVec 8) (s : State) : (faultPattern code s).anode = s.anode := by
  rw [faultPattern_frame]
@[simp] theorem faultPattern_halted (code : BitVec 8) (s : State) : (faultPattern code s).halted = s.halted := by
  rw [faultPattern_frame]
@[simp] theorem faultPattern_hvlife (code : BitVec 8) (s : State) : (faultPattern code s).hvlife = s.hvlife := by
  rw [faultPattern_frame]

theorem calContent_live (s : State) : (calContent s).live = (drawFrame 6 s).live := by
  simp only [calContent, popMask_eq, State.withEnv_live]

/-! ## First STEPs -/

/-- What a one-STEP command leaves of the sequencer and the outputs. -/
def EndsIdle (s t : State) : Prop :=
  t.seq = .idle ∧ t.anode = s.anode ∧ t.halted = s.halted ∧ (t.hvlife = s.hvlife ∨ t.hvlife = .steady)

/-- Where a meaning leaves the sequencer: Idle again, at a dark place of RENDER's pass, or inside DEPOISON, FAULT or CAL
before the second STEP. -/
theorem exec_seq_cases {i : Instr} {s t : State} (h : exec i s = .next t) :
    EndsIdle s t ∨
    (∃ src k, t.seq = .busy (encode .render) (.render src k) ∧ PassPhase.isLit k.phase = false ∧
      t.mask.getLsbD k.i.val = true ∧ t.anode = s.anode ∧ t.halted = s.halted ∧ t.hvlife = s.hvlife) ∨
    (∃ rep, t = depoisonGo (encode (.depoison rep)) ⟨rep, s.live⟩ (firstBurst rep.toNat) s) ∨
    (∃ code blocking,
      t.seq = blinkSeq (if blocking then none else some (encode (.fault code blocking))) (.mark .on 1) ∧
      t.anode = s.anode ∧ t.halted = (s.halted || blocking) ∧ t.hvlife = s.hvlife) ∨
    (∃ k, t = calGo (encode .cal) (calCtxOf s) (.search k) { s with hvlife := .calibrating }) := by
  have illegal : EndsIdle s (illegalCommand s) := ⟨rfl, rfl, rfl, .inl rfl⟩
  cases i with
  | depoison rep => cases h; exact .inr (.inr (.inl ⟨rep, rfl⟩))
  | cal => cases h; exact .inr (.inr (.inr (.inr ⟨_, rfl⟩)))
  | fault c b =>
    simp only [exec, execFault] at h
    split at h
    · right; right; right; left
      cases b <;> cases h
      · exact ⟨c, false, rfl, faultPattern_anode c s, by simp, faultPattern_hvlife c s⟩
      · exact ⟨c, true, rfl, faultPattern_anode c s, by simp, faultPattern_hvlife c s⟩
    · cases h; exact .inl illegal
  | render =>
    simp only [exec, execRender] at h
    split at h <;> split at h <;> cases h
    · rename_i k hk
      obtain ⟨i, ph⟩ := k
      obtain ⟨rfl, hm⟩ := passStart_eq_some hk
      exact .inr (.inl ⟨.live, ⟨i, .selOn s.dwell[i]⟩, rfl, rfl, hm, rfl, rfl, rfl⟩)
    · exact .inl ⟨rfl, rfl, rfl, .inl rfl⟩
    · obtain ⟨hk, hm⟩ := passStart_eq_some (by assumption)
      rw [overlayRefresh_frame] at hm ⊢
      exact .inr (.inl ⟨_, _, rfl, by rw [hk]; rfl, hm, rfl, rfl, rfl⟩)
    · rw [overlayRefresh_frame]; exact .inl ⟨rfl, rfl, rfl, .inl rfl⟩
  | btnmode => cases h; rw [modeStep_frame]; exact .inl ⟨rfl, rfl, rfl, .inl rfl⟩
  | btnadj => cases h; rw [adjustStep_frame]; exact .inl ⟨rfl, rfl, rfl, .inl rfl⟩
  | regstep => cases h; exact .inl ⟨rfl, regCore_anode .., regCore_halted .., .inl (regCore_hvlife ..)⟩
  | hven =>
    cases h
    refine .inl ⟨rfl, rfl, rfl, ?_⟩
    dsimp only; split
    · exact .inr rfl
    · exact .inl rfl
  | wrlive p d =>
    simp only [exec, execWrlive] at h
    split at h
    · split at h <;> cases h
      · exact .inl ⟨rfl, rfl, rfl, .inl rfl⟩
      · exact .inl illegal
    · cases h; exact .inl illegal
  | bcd d => simp only [exec, execBcd] at h; split at h <;> cases h <;> exact .inl ⟨rfl, rfl, rfl, .inl rfl⟩
  | wrdwell p c => simp only [exec, execWrdwell] at h; split at h <;> cases h <;> exact .inl ⟨rfl, rfl, rfl, .inl rfl⟩
  | showtime a b c =>
    simp only [exec, execShowtime] at h; split at h <;> cases h <;> exact .inl ⟨rfl, rfl, rfl, .inl rfl⟩
  | rdreg x => simp only [exec, execRdreg] at h; split at h <;> cases h <;> exact .inl ⟨rfl, rfl, rfl, .inl rfl⟩
  | hvdis | seton | settop | settgt | thresh | sample | wrmask => cases h; exact .inl ⟨rfl, rfl, rfl, .inl rfl⟩

/-- No meaning writes the anode lines: a command's first STEP is never a SEL_ON or a GAP (R83, R139). -/
theorem exec_anode {i : Instr} {s t : State} (h : exec i s = .next t) : t.anode = s.anode := by
  rcases exec_seq_cases h with ⟨-, ha, -⟩ | ⟨_, _, -, -, -, ha, -⟩ | ⟨_, rfl⟩ | ⟨_, _, -, ha, -⟩ | ⟨_, rfl⟩
  · exact ha
  · exact ha
  · rfl
  · exact ha
  · rfl

/-! ## Later STEPs

A later STEP acts on the outputs, and then moves the sequencer. -/

theorem renderStep_eq (w : Word) (src : FrameSrc) (k : PassPos) (s : State) :
    renderStep w src k s = (passStep src k s).withSeq (renderStep w src k s).seq := by
  simp only [renderStep]; split <;> rfl

theorem depoisonStep_burst_eq (w : Word) (c : DepoisonCtx) (p : Position) (r d : Nat) (s : State) :
    depoisonStep w c (.burst p r d) s = (burstStep p d s).withSeq (depoisonStep w c (.burst p r d) s).seq := by
  simp only [depoisonStep]; split <;> rfl

theorem depoisonStep_pass_eq (w : Word) (c : DepoisonCtx) (p : Position) (r d n : Nat) (k : PassPos) (s : State) :
    depoisonStep w c (.pass p r d n k) s = (passStep .live k s).withSeq (depoisonStep w c (.pass p r d n k) s).seq := by
  simp only [depoisonStep]; split <;> rfl

theorem faultStep_mark_eq (w : Option Word) (phase : BlinkPhase) (cycle : Nat) (s : State) :
    faultStep w (.mark phase cycle) s = (blinkStep phase s).withSeq (faultStep w (.mark phase cycle) s).seq := by
  simp only [faultStep]; split <;> rfl

theorem faultStep_pass_eq (w : Option Word) (phase : BlinkPhase) (cycle n : Nat) (k : PassPos) (s : State) :
    faultStep w (.pass phase cycle n k) s =
      (passStep .live k s).withSeq (faultStep w (.pass phase cycle n k) s).seq := by
  simp only [faultStep]; split <;> rfl

theorem calStep_content_eq (w : Word) (c : CalCtx) (n : Nat) (a : CalStep) (s : State) :
    calStep w c (.content n a) s = (calContent s).withSeq (calStep w c (.content n a) s).seq := by
  simp only [calStep]; split <;> rfl

theorem calStep_pass_eq (w : Word) (c : CalCtx) (n : Nat) (k : PassPos) (a : CalStep) (s : State) :
    calStep w c (.pass n k a) s = (passStep .live k s).withSeq (calStep w c (.pass n k a) s).seq := by
  simp only [calStep]; split <;> rfl

end Sys2Proof.Machine
end

section
/-! SUPPORT. The invariant `Inv` in three layers (the registers, the link between the sequencer and what it saves or
marks, and the outputs), and the first of them: every operation keeps the registers in range. -/

namespace Sys2Proof.Machine

open Sys2Proof.Safety

/-! ## The layers -/

/-- The clauses of `Inv` that do not read the sequencer. -/
structure RegistersOk (s : State) : Prop where
  cfg : s.cfg.Valid
  pwm : PwmInRange s
  thr : s.thr.toNat = thresholdFor s.cfg s.target.toNat
  acc : AccOk s
  seed : s.seeded = false → s.acc = 0#32
  live : FrameOk s.live
  ovl : FrameOk s.ovl
  bcd : isDigitValue s.bcd = true
  dwell : DwellOk s.dwell
  pend : PendOk s.pend
  log : ∀ a ∈ s.log, AdjustOk a

/-- The clauses of `Inv` that tie the sequencer to what it holds and to `halted` and `hvlife` (R22, R29, R38). -/
structure SeqLinked (s : State) : Prop where
  saved : ∀ f, savedFrame s.seq = some f → FrameOk f
  burst : ∀ d, burstDigit s.seq = some d → d ≤ 9
  halted : s.halted = isHalted s.seq
  hvlife : s.hvlife = .calibrating ↔ inCal s.seq = true

theorem inv_iff (s : State) : Inv s ↔ RegistersOk s ∧ SeqLinked s ∧ OutputsOk s :=
  ⟨fun h => ⟨{ h with }, { h with }, h.outputs⟩, fun ⟨hr, hl, ho⟩ => { hr, hl with outputs := ho }⟩

/-! ## The registers -/

section Registers

variable {s : State} (h : RegistersOk s)
include h

theorem RegistersOk.withSeq (q : Seq) : RegistersOk (s.withSeq q) := { h with }

theorem RegistersOk.display (l : Frame) (m : Mask) (e : Env) (hl : FrameOk l) :
    RegistersOk { s with live := l, mask := m, env := e } := { h with live := hl }

theorem RegistersOk.illegalCommand : RegistersOk (illegalCommand s) := { h with }

theorem RegistersOk.tickHandler : RegistersOk (tickHandler s) :=
  { h with
    live := frameOk_set (frameOk_set h.live 0 (by omega) (isDigitValue_units _)) 1 (by omega)
      (isDigitValue_tens (by omega)) }

theorem RegistersOk.setPulseWidth (v : Int) : RegistersOk (setPulseWidth v s) :=
  { h with pwm := setPulseWidth_inRange v h.cfg h.pwm }

theorem RegistersOk.setPeriod (v : Int) : RegistersOk (setPeriod v s) :=
  { h with pwm := setPeriod_inRange v h.cfg h.pwm }

theorem RegistersOk.sampleSmoothed : RegistersOk (sampleSmoothed s) :=
  { h with acc := sampleSmoothed_accOk h.cfg h.acc, seed := fun hs => by simp at hs }

theorem RegistersOk.regCore (t : Nat) : RegistersOk (regCore t s) := by
  simp only [Machine.regCore]; split <;> exact h.sampleSmoothed.setPeriod _

theorem RegistersOk.calRaise (j : Nat) : RegistersOk (calRaise j s) := by
  simp only [Machine.calRaise]; split
  · exact h.setPulseWidth _
  · exact h

theorem RegistersOk.calLower (j : Nat) : RegistersOk (calLower j s) := by
  simp only [Machine.calLower]; split
  · exact h.setPulseWidth _
  · exact h

theorem RegistersOk.calDisplay (w : Word) (c : CalCtx) (k : CalStep) : RegistersOk (calDisplay w c k s) := { h with }

theorem RegistersOk.calContent : RegistersOk (calContent s) := by
  have hl : FrameOk (Machine.calContent s).live := by
    rw [calContent_live]; exact frameOk_drawFrame 6 h.live
  rw [calContent_frame]
  exact h.display _ _ _ hl

theorem RegistersOk.passStep (src : FrameSrc) (k : PassPos) : RegistersOk (passStep src k s) := by
  rw [passStep_frame]
  exact { h with bcd := isDigitValue_passStep_bcd h.live h.ovl h.bcd }

theorem RegistersOk.drawLive (p : Position) : RegistersOk (drawLive p s) :=
  { h with live := frameOk_set h.live _ p.isLt (isDigitValue_digitDraw s) }

theorem RegistersOk.faultPattern {code : BitVec 8} (hc : isFaultCode code = true) :
    RegistersOk (faultPattern code s) := by
  have h9 : isDigitValue 9#4 = true := by decide
  have h1 : RegistersOk { s with live := (s.live.set 5 9#4).set 4 9#4 } :=
    { h with live := frameOk_set (frameOk_set h.live 5 (by omega) h9) 4 (by omega) h9 }
  have h2 := ((h1.drawLive 3).drawLive 2).drawLive 1
  exact { h2 with live := frameOk_set h2.live 0 (by omega) (isDigitValue_toDigit (of_decide_eq_true hc)) }

end Registers

/-! ### The overlay and the set mode (R100-R107) -/

theorem frameOk_timeOverlay {p : Pending} (h : PendOk p) : FrameOk (overlayRefresh.timeOverlay p) := by
  obtain ⟨-, -, -, -, -, hh, hm⟩ := h
  exact frameOk_set (frameOk_set (frameOk_frameOf (by omega) (by omega) (by omega)) 0 (by omega)
    isDigitValue_blankDigit) 1 (by omega) isDigitValue_blankDigit

theorem frameOk_dateOverlay {p : Pending} (h : PendOk p) : FrameOk (overlayRefresh.dateOverlay p) := by
  obtain ⟨hy, -, hm, -, hd, -, -⟩ := h
  exact frameOk_frameOf (by omega) (by omega) hy

theorem RegistersOk.overlayRefresh {s : State} (h : RegistersOk s) : RegistersOk (overlayRefresh s) := by
  have ht := frameOk_timeOverlay h.pend
  have hd := frameOk_dateOverlay h.pend
  cases hu : s.ui <;> simp only [Machine.overlayRefresh, hu]
  case idle => exact h
  case editMinutes | editHours => exact { h with ovl := ht }
  case editYear | editMonth | editDay => exact { h with ovl := hd }
  case showingDate => exact { h with }

theorem pendOk_pendOf {t : Config.ClockAnswer} (h : t.InRange) : PendOk (pendOf t) := by
  obtain ⟨h1, h2, h3, h4, h5, h6, -⟩ := h
  simp only [PendOk, pendOf, BitVec.toNat_ofNat]
  omega

theorem adjustOk_adjustOf {p : Pending} (h : PendOk p) : AdjustOk (adjustOf p) := by
  obtain ⟨h1, h2, h3, h4, h5, h6, h7⟩ := h
  exact ⟨h1, h2, h3, h4, h5, h6, h7, rfl⟩

theorem frameOk_dateFrame {t : Config.ClockAnswer} (h : t.InRange) : FrameOk (dateFrame t) := by
  obtain ⟨-, h2, -, h4, -, -, -⟩ := h
  exact frameOk_frameOf (by omega) (by omega) (by omega)

section Edits

variable {p : Pending} (h : PendOk p)
include h

theorem pendOk_minuteUp : PendOk (minuteUp p) := by
  simp only [PendOk, minuteUp, BitVec.toNat_ofNat] at h ⊢; omega

theorem pendOk_hourUp : PendOk (hourUp p) := by
  simp only [PendOk, hourUp, BitVec.toNat_ofNat] at h ⊢; omega

theorem pendOk_yearUp : PendOk (yearUp p) := by
  simp only [PendOk, yearUp, BitVec.toNat_ofNat] at h ⊢; omega

theorem pendOk_monthUp : PendOk (monthUp p) := by
  simp only [PendOk, monthUp] at h ⊢
  split <;> simp only [BitVec.toNat_ofNat] <;> omega

theorem pendOk_dayUp : PendOk (dayUp p) := by
  have hl := monthLen_le p.month.toNat
  simp only [PendOk, dayUp] at h ⊢
  split <;> simp only [BitVec.toNat_ofNat] <;> omega

end Edits

theorem RegistersOk.commit {s : State} (h : RegistersOk s) : RegistersOk (commit s) :=
  { h with
    log := fun a ha => by
      rcases List.mem_append.mp ha with ha | ha
      · exact h.log a ha
      · rw [List.mem_singleton.mp ha]; exact adjustOk_adjustOf h.pend }

theorem RegistersOk.modeStep {s : State} (h : RegistersOk s) : RegistersOk (modeStep s) := by
  cases hu : s.ui <;> simp only [Machine.modeStep, hu]
  case idle => exact { h with pend := pendOk_pendOf (clockDraw_inRange s) }
  case editMinutes | editHours | editYear | editMonth => exact { h with }
  case editDay => exact h.commit
  case showingDate => exact h

theorem RegistersOk.adjustStep {s : State} (h : RegistersOk s) : RegistersOk (adjustStep s) := by
  cases hu : s.ui <;> simp only [Machine.adjustStep, hu]
  case idle => exact { h with ovl := frameOk_dateFrame (clockDraw_inRange s) }
  case editMinutes => exact { h with pend := pendOk_minuteUp h.pend }
  case editHours => exact { h with pend := pendOk_hourUp h.pend }
  case editYear => exact { h with pend := pendOk_yearUp h.pend }
  case editMonth => exact { h with pend := pendOk_monthUp h.pend }
  case editDay => exact { h with pend := pendOk_dayUp h.pend }
  case showingDate => exact { h with }

/-! ### Meanings and later STEPs -/

theorem dwellOk_set {d : DwellTable} (h : DwellOk d) (p : Position) (v : Nat) :
    DwellOk (d.set p (reg16 (clamp v Config.dwellMin Config.dwellMax))) := by
  intro q
  simp only [Fin.getElem_fin, Vector.getElem_set]
  split
  · rw [clamp_natCast, reg16_toNat] <;> simp only [Config.dwellMin, Config.dwellMax] <;> omega
  · exact h q

theorem RegistersOk.renderStep {s : State} (h : RegistersOk s) (w : Word) (src : FrameSrc) (k : PassPos) :
    RegistersOk (renderStep w src k s) := by
  rw [renderStep_eq]; exact (h.passStep src k).withSeq _

/-- Every meaning keeps the registers in range. -/
theorem RegistersOk.exec {i : Instr} {s t : State} (h : RegistersOk s) (ht : exec i s = .next t) : RegistersOk t := by
  cases i with
  | seton v => cases ht; exact (h.setPulseWidth _).withSeq _
  | settop v => cases ht; exact (h.setPeriod _).withSeq _
  | settgt v => cases ht; exact { h with thr := thresholdFor_toNat .. }
  | sample => cases ht; exact { h.sampleSmoothed with }
  | regstep => cases ht; exact { h.regCore _ with }
  | hven | hvdis | thresh | wrmask | cal | depoison => cases ht; exact { h with }
  | btnmode => cases ht; exact h.modeStep.withSeq _
  | btnadj => cases ht; exact h.adjustStep.withSeq _
  | bcd d =>
    simp only [Machine.exec, execBcd] at ht
    split at ht <;> cases ht
    · exact { h with }
    · exact h.illegalCommand
  | rdreg x =>
    simp only [Machine.exec, execRdreg] at ht
    split at ht <;> cases ht
    · exact { h with }
    · exact h.illegalCommand
  | wrlive p d =>
    simp only [Machine.exec, execWrlive] at ht
    split at ht
    · split at ht <;> cases ht
      · exact { h with live := frameOk_set h.live _ (Fin.isLt _) (by assumption) }
      · exact h.illegalCommand
    · cases ht; exact h.illegalCommand
  | wrdwell p c =>
    simp only [Machine.exec, execWrdwell] at ht
    split at ht <;> cases ht
    · exact { h with dwell := dwellOk_set h.dwell _ _ }
    · exact h.illegalCommand
  | showtime a b c =>
    simp only [Machine.exec, execShowtime] at ht
    split at ht <;> cases ht
    · rename_i hw
      simp only [isHour, isMinSec, Bool.and_eq_true, decide_eq_true_eq] at hw
      exact { h with live := frameOk_frameOf (by omega) (by omega) (by omega) }
    · exact h.illegalCommand
  | render =>
    simp only [Machine.exec, execRender] at ht
    split at ht <;> split at ht <;> cases ht
    · exact h.renderStep ..
    · exact h.withSeq _
    · exact h.overlayRefresh.withSeq _
    · exact h.overlayRefresh.withSeq _
  | fault c b =>
    simp only [Machine.exec, execFault] at ht
    split at ht
    · have hp := h.faultPattern (by assumption)
      split at ht <;> cases ht
      · exact { hp with }
      · exact hp.withSeq _
    · cases ht; exact h.illegalCommand

theorem RegistersOk.depoisonStep {s : State} {c : DepoisonCtx} {k : DepoisonPos} (h : RegistersOk s) (w : Word)
    (hs : FrameOk c.savedLive) (hb : ∀ p r d, k = .burst p r d → d ≤ 9) : RegistersOk (depoisonStep w c k s) := by
  cases k with
  | burst p r d =>
    have h1 : RegistersOk (burstStep p d s) :=
      { h with live := frameOk_replicate (isDigitValue_toDigit (hb p r d rfl)) }
    rw [depoisonStep_burst_eq]; exact h1.withSeq _
  | pass p r d n k => rw [depoisonStep_pass_eq]; exact (h.passStep _ _).withSeq _
  | restore => exact { h with live := hs }

theorem RegistersOk.faultStep {s : State} (h : RegistersOk s) (w : Option Word) (k : FaultPos) :
    RegistersOk (faultStep w k s) := by
  cases k with
  | mark ph j =>
    have h1 : RegistersOk (blinkStep ph s) := { h with }
    rw [faultStep_mark_eq]; exact h1.withSeq _
  | pass ph j n k => rw [faultStep_pass_eq]; exact (h.passStep _ _).withSeq _

theorem RegistersOk.calSearch {s : State} {c : CalCtx} (h : RegistersOk s) (w : Word) (hs : FrameOk c.savedLive)
    (k : CalStep) : RegistersOk (calSearch w c k s) := by
  cases k with
  | regulate1 n => exact (h.regCore _).calDisplay ..
  | regulate4 b t n => exact (h.regCore _).calDisplay ..
  | begin2 => exact (h.setPulseWidth _).withSeq _
  | begin3 => exact (h.setPulseWidth _).withSeq _
  | settle b => exact (h.setPulseWidth _).withSeq _
  | sample2 j =>
    simp only [Machine.calSearch]; split
    · exact (h.sampleSmoothed.calRaise j).calDisplay ..
    · exact h.sampleSmoothed.withSeq _
  | sample3 b j =>
    simp only [Machine.calSearch]; split
    · exact (h.sampleSmoothed.calLower j).calDisplay ..
    · exact h.sampleSmoothed.withSeq _
  | restore => exact { h with live := hs }

theorem RegistersOk.calStep {s : State} {c : CalCtx} (h : RegistersOk s) (w : Word) (hs : FrameOk c.savedLive)
    (k : CalPos) : RegistersOk (calStep w c k s) := by
  cases k with
  | search k => exact h.calSearch w hs k
  | content n a => rw [calStep_content_eq]; exact h.calContent.withSeq _
  | pass n k a => rw [calStep_pass_eq]; exact (h.passStep _ _).withSeq _

end Sys2Proof.Machine
end

section
/-! SUPPORT. The second layer of `Inv`: every STEP keeps the link between the sequencer and what it saves or marks. -/

namespace Sys2Proof.Machine

open Sys2Proof.Safety

/-! ## The sequencer and what it saves -/

theorem SeqLinked.of_idle {t : State} (hq : t.seq = .idle) (hh : t.halted = false) (hl : t.hvlife ≠ .calibrating) :
    SeqLinked t := by
  constructor <;> simp [hq, hh, hl, savedFrame, burstDigit, isHalted, inCal]

/-- The link is kept while the sequencer stays inside one command. -/
theorem SeqLinked.of_sameCommand {s t : State} (h : SeqLinked s) (hs : savedFrame t.seq = savedFrame s.seq)
    (hi : isHalted t.seq = isHalted s.seq) (hc : inCal t.seq = inCal s.seq)
    (hb : ∀ d, burstDigit t.seq = some d → d ≤ 9) (hh : t.halted = s.halted) (hl : t.hvlife = s.hvlife) :
    SeqLinked t where
  saved f hf := h.saved f (hs ▸ hf)
  burst := hb
  halted := by rw [hh, hi]; exact h.halted
  hvlife := by rw [hl, hc]; exact h.hvlife

theorem SeqLinked.not_halted {s : State} {w : Word} {k : Pos} (h : SeqLinked s) (hq : s.seq = .busy w k) :
    s.halted = false := by
  rw [h.halted, hq]; rfl

theorem SeqLinked.not_calibrating {s : State} (h : SeqLinked s) (hq : inCal s.seq = false) :
    s.hvlife ≠ .calibrating := by
  rw [Ne, h.hvlife, hq]; decide

/-- Every burst after the first shows a digit 0 to 9 too (R94). -/
theorem afterBurst_digit_le {rep r d r' d' : Nat} {p p' : Position}
    (h : afterBurst rep p r d = .burst p' r' d') : d' ≤ 9 := by
  simp only [afterBurst] at h
  split at h
  · cases h; omega
  · split at h
    · cases h; omega
    · split at h <;> cases h; omega

theorem firstBurst_digit_le {rep r d : Nat} {p : Position} (h : firstBurst rep = .burst p r d) : d ≤ 9 := by
  simp only [firstBurst] at h
  split at h <;> cases h; omega

theorem burstDigit_depoison_le {w : Word} {c : DepoisonCtx} {k : DepoisonPos}
    (h : ∀ p r d, k = .burst p r d → d ≤ 9) : ∀ d, burstDigit (.busy w (.depoison c k)) = some d → d ≤ 9 := by
  intro d hd
  cases k <;> cases hd
  exact h _ _ _ rfl

/-- The places of a fault report: its blink cycles and, for a non-blocking one, its last STEP (R97, R98). -/
def InReport (w : Option Word) (q : Seq) : Prop :=
  (∃ k, q = blinkSeq w k) ∨ ∃ w', w = some w' ∧ q = .busy w' .faultEnd

theorem SeqLinked.of_report {t : State} {w : Option Word} (hq : InReport w t.seq) (hh : t.halted = w.isNone)
    (hl : t.hvlife ≠ .calibrating) : SeqLinked t := by
  rcases hq with ⟨k, hq⟩ | ⟨w', rfl, hq⟩
  · cases w <;> constructor <;> simp [hq, hh, hl, blinkSeq, savedFrame, burstDigit, isHalted, inCal]
  · constructor <;> simp [hq, hh, hl, savedFrame, burstDigit, isHalted, inCal]

/-- A first STEP links the sequencer to what it saves. -/
theorem exec_seqLinked {i : Instr} {s t : State} (hh : s.halted = false) (hc : s.hvlife ≠ .calibrating)
    (hl : FrameOk s.live) (h : exec i s = .next t) : SeqLinked t := by
  rcases exec_seq_cases h with ⟨hq, -, hh', hc'⟩ | ⟨src, k, hq, -, -, -, hh', hc'⟩ | ⟨rep, rfl⟩ |
    ⟨code, blocking, hq, -, hh', hc'⟩ | ⟨k, rfl⟩
  · refine .of_idle hq (hh'.trans hh) ?_
    rcases hc' with hc' | hc' <;> rw [hc']
    · exact hc
    · decide
  · constructor <;> simp [hq, hh', hh, hc', hc, savedFrame, burstDigit, isHalted, inCal]
  · constructor
    case burst => exact burstDigit_depoison_le fun _ _ _ => firstBurst_digit_le
    all_goals simp [depoisonGo, hh, hc, hl, savedFrame, isHalted, inCal]
  · refine .of_report (.inl ⟨_, hq⟩) ?_ (hc' ▸ hc)
    cases blocking <;> simp [hh', hh]
  · constructor <;> simp [calGo, calCtxOf, hh, hl, savedFrame, burstDigit, isHalted, inCal]

theorem renderStep_seq_cases (w : Word) (src : FrameSrc) (k : PassPos) (s : State) :
    (renderStep w src k s).seq = .idle ∨ ∃ k', (renderStep w src k s).seq = .busy w (.render src k') := by
  simp only [renderStep]; split
  · exact .inr ⟨_, rfl⟩
  · exact .inl rfl

theorem renderStep_seqLinked {s : State} {w : Word} {src : FrameSrc} {k : PassPos} (h : SeqLinked s)
    (hq : s.seq = .busy w (.render src k)) : SeqLinked (renderStep w src k s) := by
  have hh : (renderStep w src k s).halted = s.halted := by rw [renderStep_frame]
  have hl : (renderStep w src k s).hvlife = s.hvlife := by rw [renderStep_frame]
  rcases renderStep_seq_cases w src k s with hq' | ⟨k', hq'⟩
  · exact .of_idle hq' (hh.trans (h.not_halted hq)) (hl ▸ h.not_calibrating (by rw [hq]; rfl))
  · exact h.of_sameCommand (by rw [hq, hq']; rfl) (by rw [hq, hq']; rfl) (by rw [hq, hq']; rfl)
      (by rw [hq']; simp [burstDigit]) hh hl

theorem depoisonStep_seq_cases (w : Word) (c : DepoisonCtx) (k : DepoisonPos) (s : State) :
    (depoisonStep w c k s).seq = .idle ∨
    ∃ k', (depoisonStep w c k s).seq = .busy w (.depoison c k') ∧ ∀ p r d, k' = .burst p r d → d ≤ 9 := by
  cases k with
  | burst p r d =>
    right; simp only [depoisonStep]; split
    · exact ⟨_, rfl, nofun⟩
    · exact ⟨_, rfl, fun _ _ _ => afterBurst_digit_le⟩
  | pass p r d n k =>
    right; simp only [depoisonStep]; split
    · exact ⟨_, rfl, nofun⟩
    · exact ⟨_, rfl, fun _ _ _ => afterBurst_digit_le⟩
  | restore => exact .inl rfl

theorem depoisonStep_seqLinked {s : State} {w : Word} {c : DepoisonCtx} {k : DepoisonPos} (h : SeqLinked s)
    (hq : s.seq = .busy w (.depoison c k)) : SeqLinked (depoisonStep w c k s) := by
  have hh : (depoisonStep w c k s).halted = s.halted := by rw [depoisonStep_frame]
  have hl : (depoisonStep w c k s).hvlife = s.hvlife := by rw [depoisonStep_frame]
  rcases depoisonStep_seq_cases w c k s with hq' | ⟨k', hq', hb⟩
  · exact .of_idle hq' (hh.trans (h.not_halted hq)) (hl ▸ h.not_calibrating (by rw [hq]; rfl))
  · refine h.of_sameCommand (by rw [hq, hq']; rfl) (by rw [hq, hq']; rfl) (by rw [hq, hq']; rfl) ?_ hh hl
    rw [hq']; exact burstDigit_depoison_le hb

/-- A STEP of the blink cycles stays in its report. -/
theorem inReport_afterPhase (w : Option Word) (phase : BlinkPhase) (cycle : Nat) :
    InReport w (afterPhase w phase cycle) := by
  cases phase with
  | on => exact .inl ⟨_, rfl⟩
  | off =>
    simp only [afterPhase]; split
    · exact .inl ⟨_, rfl⟩
    · cases w with
      | some w => exact .inr ⟨w, rfl, rfl⟩
      | none => exact .inl ⟨_, rfl⟩

theorem inReport_faultStep (w : Option Word) (k : FaultPos) (s : State) : InReport w (faultStep w k s).seq := by
  cases k with
  | mark phase cycle =>
    simp only [faultStep]; split
    · exact .inl ⟨_, rfl⟩
    · exact inReport_afterPhase ..
  | pass phase cycle n k =>
    simp only [faultStep]; split
    · exact .inl ⟨_, rfl⟩
    · exact inReport_afterPhase ..

theorem faultStep_seqLinked {s : State} {w : Option Word} {k : FaultPos} (h : SeqLinked s)
    (hq : s.seq = blinkSeq w k) : SeqLinked (faultStep w k s) := by
  have hh : s.halted = w.isNone := by rw [h.halted, hq]; cases w <;> rfl
  have hl : s.hvlife ≠ .calibrating := h.not_calibrating (by rw [hq]; cases w <;> rfl)
  exact .of_report (inReport_faultStep w k s) (by rw [faultStep_frame]; exact hh) (by rw [faultStep_frame]; exact hl)

/-- A STEP of the search stays inside CAL, outside the display passes and with `hvlife` as it was, or is the last one
(R80). -/
theorem calSearch_seq_cases (w : Word) (c : CalCtx) (k : CalStep) (s : State) :
    ((calSearch w c k s).seq = .idle ∧ (calSearch w c k s).hvlife = .steady) ∨
    ∃ k', (calSearch w c k s).seq = .busy w (.cal c k') ∧ calPass k' = none ∧
      (calSearch w c k s).hvlife = s.hvlife := by
  have display (a : CalStep) (t : State) :
      ∃ k', (calDisplay w c a t).seq = .busy w (.cal c k') ∧ calPass k' = none ∧
        (calDisplay w c a t).hvlife = t.hvlife :=
    ⟨_, calDisplay_seq .., by split <;> rfl, rfl⟩
  cases k with
  | restore => exact .inl ⟨rfl, rfl⟩
  | regulate1 n | regulate4 b t n =>
    obtain ⟨k', hq, hk, hl⟩ := display _ (regCore c.thrCal.toNat s)
    exact .inr ⟨k', hq, hk, hl.trans (regCore_hvlife ..)⟩
  | begin2 | begin3 | settle => exact .inr ⟨_, rfl, rfl, rfl⟩
  | sample2 j =>
    right; simp only [calSearch]; split
    · obtain ⟨k', hq, hk, hl⟩ := display (.sample2 (j + 1)) (calRaise j (sampleSmoothed s))
      obtain ⟨o, p, hr⟩ := calRaise_shape j (sampleSmoothed s)
      exact ⟨k', hq, hk, by rw [hl, hr]; rfl⟩
    · exact ⟨_, rfl, rfl, rfl⟩
  | sample3 b j =>
    right; simp only [calSearch]; split
    · obtain ⟨k', hq, hk, hl⟩ := display (.sample3 b (j + 1)) (calLower j (sampleSmoothed s))
      obtain ⟨o, p, hr⟩ := calLower_shape j (sampleSmoothed s)
      exact ⟨k', hq, hk, by rw [hl, hr]; rfl⟩
    · exact ⟨_, rfl, rfl, rfl⟩

theorem calStep_seq_cases (w : Word) (c : CalCtx) (k : CalPos) (s : State) :
    ((calStep w c k s).seq = .idle ∧ (calStep w c k s).hvlife = .steady) ∨
    ∃ k', (calStep w c k s).seq = .busy w (.cal c k') ∧ (calStep w c k s).hvlife = s.hvlife := by
  cases k with
  | search k =>
    rcases calSearch_seq_cases w c k s with h | ⟨k', hq, -, hl⟩
    · exact .inl h
    · exact .inr ⟨k', hq, hl⟩
  | content n a =>
    have hl : (calContent s).hvlife = s.hvlife := by rw [calContent_frame]
    right; simp only [calStep]; split <;> exact ⟨_, rfl, hl⟩
  | pass n k a => right; simp only [calStep]; split <;> exact ⟨_, rfl, passStep_hvlife ..⟩

theorem calStep_seqLinked {s : State} {w : Word} {c : CalCtx} {k : CalPos} (h : SeqLinked s)
    (hq : s.seq = .busy w (.cal c k)) : SeqLinked (calStep w c k s) := by
  have hh : (calStep w c k s).halted = s.halted := by rw [calStep_frame]
  rcases calStep_seq_cases w c k s with ⟨hq', hl⟩ | ⟨k', hq', hl⟩
  · exact .of_idle hq' (hh.trans (h.not_halted hq)) (by rw [hl]; decide)
  · exact h.of_sameCommand (by rw [hq, hq']; rfl) (by rw [hq, hq']; rfl) (by rw [hq, hq']; rfl)
      (by rw [hq']; simp [burstDigit]) hh hl

end Sys2Proof.Machine
end

section
/-! SUPPORT. The third layer of `Inv`: every STEP keeps the outputs as R84 and R85 say. -/

namespace Sys2Proof.Machine

open Sys2Proof.Safety

/-! ## The pass each later STEP leaves in progress -/

theorem depoisonPass_afterBurst (rep r d : Nat) (p : Position) : depoisonPass (afterBurst rep p r d) = none := by
  simp only [afterBurst]; (repeat' split) <;> rfl

theorem passOf_blinkSeq (w : Option Word) (k : FaultPos) : passOf (blinkSeq w k) = faultPass k := by
  cases w <;> rfl

theorem passOf_afterPhase (w : Option Word) (phase : BlinkPhase) (cycle : Nat) :
    passOf (afterPhase w phase cycle) = none := by
  cases phase with
  | on => exact passOf_blinkSeq ..
  | off =>
    simp only [afterPhase]; split
    · exact passOf_blinkSeq ..
    · cases w <;> rfl

theorem calPass_calDisplayNext (n : Nat) (a : CalStep) : calPass (calDisplayNext n a) = none := by
  simp only [calDisplayNext]; split <;> rfl

theorem passOf_renderStep (w : Word) (src : FrameSrc) (k : PassPos) (s : State) :
    passOf (renderStep w src k s).seq = passNext k (passStep src k s) := by
  simp only [renderStep]
  cases passNext k (passStep src k s) <;> rfl

theorem passOf_depoisonStep_burst (w : Word) (c : DepoisonCtx) (p : Position) (r d : Nat) (s : State) :
    passOf (depoisonStep w c (.burst p r d) s).seq =
      (passesStart (burstStep p d s).mask (passesDraw 1 s)).map Prod.snd := by
  simp only [depoisonStep]
  cases passesStart (burstStep p d s).mask (passesDraw 1 s) with
  | some r => rfl
  | none => exact depoisonPass_afterBurst ..

theorem passOf_depoisonStep_pass (w : Word) (c : DepoisonCtx) (p : Position) (r d n : Nat) (k : PassPos) (s : State) :
    passOf (depoisonStep w c (.pass p r d n k) s).seq = (passesNext n k (passStep .live k s)).map Prod.snd := by
  simp only [depoisonStep]
  cases passesNext n k (passStep .live k s) with
  | some r => rfl
  | none => exact depoisonPass_afterBurst ..

theorem passOf_faultStep_mark (w : Option Word) (phase : BlinkPhase) (cycle : Nat) (s : State) :
    passOf (faultStep w (.mark phase cycle) s).seq =
      (passesStart (blinkStep phase s).mask (passesDraw 1 s)).map Prod.snd := by
  simp only [faultStep]
  cases passesStart (blinkStep phase s).mask (passesDraw 1 s) with
  | some r => exact passOf_blinkSeq ..
  | none => exact passOf_afterPhase ..

theorem passOf_faultStep_pass (w : Option Word) (phase : BlinkPhase) (cycle n : Nat) (k : PassPos) (s : State) :
    passOf (faultStep w (.pass phase cycle n k) s).seq = (passesNext n k (passStep .live k s)).map Prod.snd := by
  simp only [faultStep]
  cases passesNext n k (passStep .live k s) with
  | some r => exact passOf_blinkSeq ..
  | none => exact passOf_afterPhase ..

theorem passOf_calStep_content (w : Word) (c : CalCtx) (n : Nat) (a : CalStep) (s : State) :
    passOf (calStep w c (.content n a) s).seq = passStart (calContent s).mask := by
  simp only [calStep]
  cases passStart (calContent s).mask with
  | some k => rfl
  | none => exact calPass_calDisplayNext ..

theorem passOf_calStep_pass (w : Word) (c : CalCtx) (n : Nat) (k : PassPos) (a : CalStep) (s : State) :
    passOf (calStep w c (.pass n k a) s).seq = passNext k (passStep .live k s) := by
  simp only [calStep]
  cases passNext k (passStep .live k s) with
  | some k' => rfl
  | none => exact calPass_calDisplayNext ..

/-! ## The outputs after a STEP that starts a pass, and after a STEP of one -/

/-- A pass starts at a lit position, and with none lit there is no pass. -/
theorem passStart_outputsOk {s : State} {q : Seq} (ha : s.anode = 0#6) (hq : passOf q = passStart s.mask) :
    OutputsOk (s.withSeq q) := by
  cases hp : passStart s.mask with
  | none => exact outputsOk_outside (hq.trans hp) ha
  | some k =>
    obtain ⟨hk, hm⟩ := passStart_eq_some hp
    exact outputsOk_dark (hq.trans hp) (by rw [hk]; rfl) ha hm

theorem passesStart_outputsOk {s : State} {q : Seq} {n : Nat} (ha : s.anode = 0#6)
    (hq : passOf q = (passesStart s.mask n).map Prod.snd) : OutputsOk (s.withSeq q) := by
  cases hp : passesStart s.mask n with
  | none => exact outputsOk_outside (hq.trans (by rw [hp]; rfl)) ha
  | some r =>
    obtain ⟨m, k⟩ := r
    obtain ⟨-, -, hk⟩ := passesStart_eq_some hp
    exact passStart_outputsOk ha (by rw [hq, hp, hk]; rfl)

theorem passNext_outputsOk {src : FrameSrc} {k : PassPos} {s : State} {q : Seq} (ho : OutputsOk s)
    (hk : passOf s.seq = some k) (hq : passOf q = passNext k (passStep src k s)) :
    OutputsOk ((passStep src k s).withSeq q) :=
  passStep_outputsOk ho hk rfl rfl (passStep_mask ..) (.inl hq)

/-- In a repeat of passes the pass goes on, or the next one starts. -/
theorem passesNext_outputsOk {src : FrameSrc} {k : PassPos} {s : State} {q : Seq} {n : Nat} (ho : OutputsOk s)
    (hk : passOf s.seq = some k) (hq : passOf q = (passesNext n k (passStep src k s)).map Prod.snd) :
    OutputsOk ((passStep src k s).withSeq q) := by
  simp only [passesNext, passStep_mask] at hq
  cases hn : passNext k (passStep src k s) with
  | some k' => exact passNext_outputsOk ho hk (by rw [hq, hn]; rfl)
  | none =>
    rw [hn] at hq
    refine passStep_outputsOk ho hk rfl rfl (passStep_mask ..) (.inr ⟨hn, ?_⟩)
    cases hp : passesStart s.mask (n - 1) with
    | none => rw [hp] at hq; exact .inl hq
    | some r =>
      rw [hp] at hq
      exact .inr ⟨r.2, hq, (passesStart_eq_some (k := r.2) hp).2.2⟩

/-! ## The outputs after each kind of STEP -/

/-- A first STEP leaves every anode off, and it comes no further than a dark place of RENDER's pass. -/
theorem exec_outputsOk {i : Instr} {s t : State} (ha : s.anode = 0#6) (h : exec i s = .next t) : OutputsOk t := by
  have ha' : t.anode = 0#6 := (exec_anode h).trans ha
  rcases exec_seq_cases h with ⟨hq, -⟩ | ⟨src, k, hq, hd, hm, -⟩ | ⟨rep, rfl⟩ | ⟨code, blocking, hq, -⟩ |
    ⟨k, rfl⟩
  · exact outputsOk_outside (by rw [hq]; rfl) ha'
  · exact outputsOk_dark (by rw [hq]; rfl) hd ha' hm
  · refine outputsOk_outside ?_ ha'
    simp only [depoisonGo, State.goTo_eq, State.withSeq_seq, firstBurst]
    split <;> rfl
  · exact outputsOk_outside (by rw [hq, passOf_blinkSeq]; rfl) ha'
  · exact outputsOk_outside rfl ha'

theorem renderStep_outputsOk {s : State} {w : Word} {src : FrameSrc} {k : PassPos} (h : OutputsOk s)
    (hq : s.seq = .busy w (.render src k)) : OutputsOk (renderStep w src k s) := by
  rw [renderStep_eq]
  exact passNext_outputsOk h (by rw [hq]; rfl) (passOf_renderStep ..)

theorem depoisonStep_outputsOk {s : State} {w : Word} {c : DepoisonCtx} {k : DepoisonPos} (h : OutputsOk s)
    (hq : s.seq = .busy w (.depoison c k)) : OutputsOk (depoisonStep w c k s) := by
  have hk : passOf s.seq = depoisonPass k := by rw [hq]; rfl
  cases k with
  | burst p r d =>
    have ha : (burstStep p d s).anode = 0#6 := OutputsOk.anode_outside (s := s) h hk
    rw [depoisonStep_burst_eq]
    exact passesStart_outputsOk ha (passOf_depoisonStep_burst ..)
  | pass p r d n k =>
    rw [depoisonStep_pass_eq]
    exact passesNext_outputsOk h hk (passOf_depoisonStep_pass ..)
  | restore => exact outputsOk_outside rfl (OutputsOk.anode_outside (s := s) h hk)

theorem faultStep_outputsOk {s : State} {w : Option Word} {k : FaultPos} (h : OutputsOk s)
    (hq : s.seq = blinkSeq w k) : OutputsOk (faultStep w k s) := by
  have hk : passOf s.seq = faultPass k := by rw [hq, passOf_blinkSeq]
  cases k with
  | mark phase cycle =>
    have ha : (blinkStep phase s).anode = 0#6 := OutputsOk.anode_outside (s := s) h hk
    rw [faultStep_mark_eq]
    exact passesStart_outputsOk ha (passOf_faultStep_mark ..)
  | pass phase cycle n k =>
    rw [faultStep_pass_eq]
    exact passesNext_outputsOk h hk (passOf_faultStep_pass ..)

theorem calSearch_anode (w : Word) (c : CalCtx) (k : CalStep) (s : State) : (calSearch w c k s).anode = s.anode := by
  obtain ⟨_, _, _, _, _, _, _, _, _, hk⟩ := calSearch_shape w c k s
  rw [hk]

theorem calStep_outputsOk {s : State} {w : Word} {c : CalCtx} {k : CalPos} (h : OutputsOk s)
    (hq : s.seq = .busy w (.cal c k)) : OutputsOk (calStep w c k s) := by
  have hk : passOf s.seq = calPass k := by rw [hq]; rfl
  cases k with
  | search k =>
    refine outputsOk_outside ?_ ((calSearch_anode w c k s).trans (OutputsOk.anode_outside h hk))
    rcases calSearch_seq_cases w c k s with ⟨hq', -⟩ | ⟨k', hq', hk', -⟩
    · exact congrArg passOf hq'
    · exact (congrArg passOf hq').trans hk'
  | content n a =>
    have ha : s.anode = 0#6 := OutputsOk.anode_outside h hk
    have ha' : (calContent s).anode = 0#6 := by rw [calContent_frame]; exact ha
    rw [calStep_content_eq]
    exact passStart_outputsOk ha' (passOf_calStep_content ..)
  | pass n k a =>
    rw [calStep_pass_eq]
    exact passNext_outputsOk h hk (passOf_calStep_pass ..)

end Sys2Proof.Machine
end

section
/-! SUPPORT. Every step keeps `Inv`, and the reset state meets it. -/

namespace Sys2Proof.Machine

open Sys2Proof.Safety

/-! ## The step -/

theorem busyStep_inv {s t : State} {w : Word} {k : Pos} (h : Inv s) (hq : s.seq = .busy w k)
    (ht : busyStep w k s = .next t) : Inv t := by
  obtain ⟨hr, hl, ho⟩ := (inv_iff s).mp h
  rw [inv_iff]
  rcases busyStep_cases ht with ⟨rfl, -, rfl⟩ | ⟨rfl, i, -, he⟩ | ⟨src, p, rfl, rfl⟩ | ⟨c, p, rfl, rfl⟩ |
    ⟨p, rfl, rfl⟩ | ⟨rfl, rfl⟩ | ⟨c, p, rfl, rfl⟩
  · have ha : s.anode = 0#6 := OutputsOk.anode_outside ho (by rw [hq]; rfl)
    exact ⟨hr.illegalCommand, .of_idle rfl (hl.not_halted hq) (hl.not_calibrating (by rw [hq]; rfl)),
      outputsOk_outside rfl ha⟩
  · have ha : s.anode = 0#6 := OutputsOk.anode_outside ho (by rw [hq]; rfl)
    exact ⟨hr.exec he, exec_seqLinked (hl.not_halted hq) (hl.not_calibrating (by rw [hq]; rfl)) hr.live he,
      exec_outputsOk ha he⟩
  · exact ⟨hr.renderStep w src p, renderStep_seqLinked hl hq, renderStep_outputsOk ho hq⟩
  · have hs : FrameOk c.savedLive := hl.saved _ (by rw [hq]; rfl)
    have hb : ∀ p' r d, p = .burst p' r d → d ≤ 9 := fun p' r d hp => hl.burst d (by rw [hq, hp]; rfl)
    exact ⟨hr.depoisonStep w hs hb, depoisonStep_seqLinked hl hq, depoisonStep_outputsOk ho hq⟩
  · exact ⟨hr.faultStep (some w) p, faultStep_seqLinked hl hq, faultStep_outputsOk ho hq⟩
  · have ha : s.anode = 0#6 := OutputsOk.anode_outside ho (by rw [hq]; rfl)
    exact ⟨{ hr with }, .of_idle rfl (hl.not_halted hq) (hl.not_calibrating (by rw [hq]; rfl)),
      outputsOk_outside rfl ha⟩
  · have hs : FrameOk c.savedLive := hl.saved _ (by rw [hq]; rfl)
    exact ⟨hr.calStep w hs p, calStep_seqLinked hl hq, calStep_outputsOk ho hq⟩

theorem acceptStep_inv {s : State} (h : Inv s) (hq : s.seq = .idle) : Inv (acceptStep s) := by
  obtain ⟨hr, hl, ho⟩ := (inv_iff s).mp h
  have ha : s.anode = 0#6 := OutputsOk.anode_outside ho (by rw [hq]; rfl)
  simp only [acceptStep]; split
  · rw [inv_iff]
    refine ⟨{ hr with }, ?_, outputsOk_outside rfl ha⟩
    exact hl.of_sameCommand (by rw [hq]; rfl) (by rw [hq]; rfl) (by rw [hq]; rfl) nofun rfl rfl
  · exact h

theorem tickHandler_inv {s : State} (h : Inv s) : Inv (tickHandler s) := by
  obtain ⟨hr, hl, ho⟩ := (inv_iff s).mp h
  exact (inv_iff _).mpr ⟨hr.tickHandler, { hl with }, ho⟩

theorem coreStep_inv {s t : State} (h : Inv s) (ht : coreStep s = .next t) : Inv t := by
  rcases coreStep_cases ht with ⟨-, rfl⟩ | ⟨-, hq, rfl⟩ | ⟨-, k, hq, rfl⟩ | ⟨-, w, k, hq, hb⟩
  · exact tickHandler_inv h
  · exact acceptStep_inv h hq
  · obtain ⟨hr, hl, ho⟩ := (inv_iff s).mp h
    exact (inv_iff _).mpr ⟨hr.faultStep none k, faultStep_seqLinked hl hq, faultStep_outputsOk ho hq⟩
  · exact busyStep_inv h hq hb

/-- The invariant reads neither the environment nor the port. -/
theorem withEnv_inv {s : State} (h : Inv s) (e : Env) : Inv (s.withEnv e) := { h with }

theorem edgeArrives_inv {s : State} (h : Inv s) : Inv (edgeArrives s) := by
  simp only [edgeArrives]; split
  · exact { h with }
  · exact h

section Reset

variable {c : Config.Params} (hc : c.Valid)
include hc

theorem resetOf_pwmOn_toNat : (State.resetOf c).pwmOn.toNat = c.pulseDefault := by
  obtain ⟨-, -, h1, h2, -, h3, -⟩ := hc
  exact (BitVec.toNat_ofNat ..).trans (Nat.mod_eq_of_lt (by omega))

theorem resetOf_pwmTop_toNat : (State.resetOf c).pwmTop.toNat = c.topDefault := by
  obtain ⟨-, -, h1, -, -, -, -, h2, -⟩ := hc
  exact (BitVec.toNat_ofNat ..).trans (Nat.mod_eq_of_lt (by omega))

theorem resetOf_target_toNat : (State.resetOf c).target.toNat = c.targetDefault := by
  obtain ⟨-, -, -, -, -, -, -, -, -, h, -⟩ := hc
  exact (BitVec.toNat_ofNat ..).trans (Nat.mod_eq_of_lt (by omega))

theorem resetOf_dwell_toNat (p : Position) : (State.resetOf c).dwell[p].toNat = c.dwellDefault := by
  obtain ⟨-, -, -, -, -, -, -, -, -, -, -, -, -, -, -, -, h⟩ := hc
  simp only [State.resetOf, Fin.getElem_fin, Vector.getElem_replicate]
  simp only [Config.dwellMax] at h
  exact (BitVec.toNat_ofNat ..).trans (Nat.mod_eq_of_lt (by omega))

theorem resetOf_pwmInRange : PwmInRange (State.resetOf c) := by
  simp only [PwmInRange, resetOf_pwmOn_toNat hc, resetOf_pwmTop_toNat hc]
  obtain ⟨-, -, -, -, h1, h2, h3, h4, h5, -⟩ := hc
  exact ⟨h1, h2, h3, h4, h5⟩

theorem resetOf_dwellOk : DwellOk (State.resetOf c).dwell := by
  intro p
  rw [resetOf_dwell_toNat hc]
  obtain ⟨-, -, -, -, -, -, -, -, -, -, -, -, -, -, -, h⟩ := hc
  exact h

theorem resetOf_registersOk : RegistersOk (State.resetOf c) where
  cfg := hc
  pwm := resetOf_pwmInRange hc
  thr := by rw [resetOf_target_toNat hc]; exact thresholdFor_toNat ..
  acc := Nat.zero_le _
  seed _ := rfl
  live := frameOk_replicate isDigitValue_blankDigit
  ovl := frameOk_replicate isDigitValue_blankDigit
  bcd := isDigitValue_blankDigit
  dwell := resetOf_dwellOk hc
  pend := by simp [PendOk, State.resetOf]
  log := nofun

theorem resetOf_inv : Inv (State.resetOf c) :=
  (inv_iff _).mpr ⟨resetOf_registersOk hc, .of_idle rfl rfl nofun, outputsOk_outside rfl rfl⟩

end Reset

theorem step_inv {s t : State} (h : Inv s) (ht : step s = .next t) : Inv t := by
  have hd : Inv s.dropInput := withEnv_inv h _
  rcases step_cases ht with ⟨-, rfl⟩ | ⟨-, rfl⟩ | ⟨-, -, rfl⟩ | ⟨w, -, -, rfl⟩ | ⟨-, hc⟩ | hc
  · exact withEnv_inv (resetOf_inv h.cfg) _
  · exact edgeArrives_inv hd
  · exact withEnv_inv hd _
  · exact { hd with }
  · exact coreStep_inv hd hc
  · exact coreStep_inv h hc

/-- Settles O59: `Inv` in three layers, each kept by every kind of STEP. -/
theorem everyStepKeepsTheInvariant : Obligations.EveryStepKeepsTheInvariant := by
  unfold Obligations.EveryStepKeepsTheInvariant
  exact fun s t h ht => step_inv h ht

/-- Settles O58: the reset values of R42 are in range, and the sequencer is Idle. -/
theorem resetMeetsTheInvariant : Obligations.ResetMeetsTheInvariant := by
  unfold Obligations.ResetMeetsTheInvariant
  exact fun c hc => resetOf_inv hc

end Sys2Proof.Machine
end

section
/-! SUPPORT. What only RESET or a pass can change: the Halted state and the anode lines. What a step does with a decoded
word, an offered word and the inputs to come. -/

namespace Sys2Proof.Machine

open Sys2Proof.Safety

/-! ## Halted (R21, R98) -/

theorem coreStep_halted {s t : State} {k : FaultPos} (hq : s.seq = .halted k) (h : coreStep s = .next t) :
    (∃ k', t.seq = .halted k') ∧ t.cmdIn = s.cmdIn := by
  rcases coreStep_cases h with ⟨-, rfl⟩ | ⟨-, hi, -⟩ | ⟨-, k, -, rfl⟩ | ⟨-, w, p, hb, -⟩
  · exact ⟨⟨k, hq⟩, rfl⟩
  · rw [hq] at hi; cases hi
  · exact ⟨faultStep_none_seq k s, by rw [faultStep_frame]⟩
  · rw [hq] at hb; cases hb

/-- Settles O10: a blocking report's STEP stays in its blink cycles, and acceptance happens in Idle alone. -/
theorem haltedLeavesOnlyByReset : Obligations.HaltedLeavesOnlyByReset := by
  unfold Obligations.HaltedLeavesOnlyByReset
  intro s t k hq hr h
  rcases step_cases_noReset hr h with rfl | ⟨hi, -, -⟩ | h | h
  · exact ⟨⟨k, by simpa using hq⟩, by simp⟩
  · rw [hq] at hi; cases hi
  · exact coreStep_halted (s := s.dropInput) hq h
  · exact coreStep_halted hq h

/-! ## The anode lines (R33, R84, R139) -/

/-- A change of the anode lines from `s` to `t` is the work of a SEL_ON or a GAP that `s` was at. -/
def AnodeByPass (s t : State) : Prop :=
  t.anode ≠ s.anode →
    (∃ k n, passOf s.seq = some k ∧ k.phase = .selOn n ∧ t.anode = 1#6 <<< k.i.val) ∨
    (∃ k, passOf s.seq = some k ∧ k.phase = .gap ∧ t.anode = 0#6)

theorem AnodeByPass.of_eq {s t : State} (h : t.anode = s.anode) : AnodeByPass s t := fun hne => absurd h hne

theorem passStep_anodeByPass {src : FrameSrc} {k : PassPos} {s : State} (hk : passOf s.seq = some k) (q : Seq) :
    AnodeByPass s ((passStep src k s).withSeq q) := by
  obtain ⟨i, ph⟩ := k
  cases ph with
  | selBcd | dwell => exact .of_eq rfl
  | selOn n => exact fun _ => .inl ⟨_, n, hk, rfl, rfl⟩
  | gap => exact fun _ => .inr ⟨_, hk, rfl, rfl⟩

theorem depoisonStep_anodeByPass {s : State} {w : Word} {c : DepoisonCtx} {k : DepoisonPos}
    (hq : s.seq = .busy w (.depoison c k)) : AnodeByPass s (depoisonStep w c k s) := by
  cases k with
  | burst p r d => rw [depoisonStep_burst_eq]; exact .of_eq rfl
  | pass p r d n k => rw [depoisonStep_pass_eq]; exact passStep_anodeByPass (by rw [hq]; rfl) _
  | restore => exact .of_eq rfl

theorem faultStep_anodeByPass {s : State} {w : Option Word} {k : FaultPos} (hq : s.seq = blinkSeq w k) :
    AnodeByPass s (faultStep w k s) := by
  cases k with
  | mark phase cycle => rw [faultStep_mark_eq]; exact .of_eq rfl
  | pass phase cycle n k =>
    rw [faultStep_pass_eq]; exact passStep_anodeByPass (by rw [hq, passOf_blinkSeq]; rfl) _

theorem calStep_anodeByPass {s : State} {w : Word} {c : CalCtx} {k : CalPos} (hq : s.seq = .busy w (.cal c k)) :
    AnodeByPass s (calStep w c k s) := by
  cases k with
  | search k => exact .of_eq (calSearch_anode ..)
  | content n a =>
    refine .of_eq ?_
    rw [calStep_content_eq, State.withSeq_anode, calContent_frame]
  | pass n k a => rw [calStep_pass_eq]; exact passStep_anodeByPass (by rw [hq]; rfl) _

theorem coreStep_anodeByPass {s t : State} (h : coreStep s = .next t) : AnodeByPass s t := by
  rcases coreStep_cases h with ⟨-, rfl⟩ | ⟨-, -, rfl⟩ | ⟨-, k, hq, rfl⟩ | ⟨-, w, k, hq, hb⟩
  · exact .of_eq rfl
  · refine .of_eq ?_
    simp only [acceptStep]; split <;> rfl
  · exact faultStep_anodeByPass hq
  · rcases busyStep_cases hb with ⟨-, -, rfl⟩ | ⟨-, i, -, he⟩ | ⟨src, p, rfl, rfl⟩ | ⟨c, p, rfl, rfl⟩ | ⟨p, rfl, rfl⟩ |
      ⟨-, rfl⟩ | ⟨c, p, rfl, rfl⟩
    · exact .of_eq rfl
    · exact .of_eq (exec_anode he)
    · rw [renderStep_eq]; exact passStep_anodeByPass (by rw [hq]; rfl) _
    · exact depoisonStep_anodeByPass hq
    · exact faultStep_anodeByPass hq
    · exact .of_eq rfl
    · exact calStep_anodeByPass hq

/-- Settles O41: every kind of STEP either keeps `anode` or is a STEP of the pass in progress. -/
theorem anodeIsWrittenByPassesAlone : Obligations.AnodeIsWrittenByPassesAlone := by
  unfold Obligations.AnodeIsWrittenByPassesAlone
  intro s t hr h
  rcases step_cases_noReset hr h with rfl | ⟨-, -, rfl | ⟨w, rfl⟩⟩ | h | h
  · exact AnodeByPass.of_eq (edgeArrives_anode s.dropInput)
  · exact AnodeByPass.of_eq rfl
  · exact AnodeByPass.of_eq rfl
  · exact coreStep_anodeByPass (s := s.dropInput) h
  · exact coreStep_anodeByPass h

/-! ## The decode step (R21, R64) -/

/-- With a word accepted and no edge pending, the core's STEP is the command's first. -/
theorem coreStep_of_decode {s : State} {w : Word} {i : Instr} (hq : s.seq = .busy w .start) (ht : s.tickPending = 0)
    (hd : decode w = some i) : coreStep s = exec i s := by
  simp only [coreStep, ht, seqStep, hq, busyStep, hd, if_true]

/-- Away from Idle with a free port, an offer and the start of the 1 Hz signal wait (R126, R130). -/
theorem step_of_hostMove {s : State} {m : Config.Input} (hu : s.env.upcoming = some m) (hm : isHostMove m = true)
    (hw : s.seq ≠ .idle ∨ s.cmdIn ≠ none) : step s = coreStep s := by
  refine step_waiting (.inr ⟨?_, by rw [hu]; exact hm⟩)
  rw [← Bool.not_eq_true, hostMayMove_iff]
  rintro ⟨hq, hc⟩
  exact hw.elim (· hq) (· hc)

/-- A STEP of the core that answers `t` under some inputs to come answers it under any. -/
theorem coreStep_of_arriving {s t : State} {l₀ : List Config.Input} {o₀ : Onward} {n₀ : Nat}
    (h : coreStep (s.arriving l₀ o₀ n₀) = .next t) (l : List Config.Input) (o : Onward) (n : Nat) :
    coreStep (s.arriving l o n) = .next (t.arriving l o n) := by
  have hc := coreStep_arriving (s.arriving l₀ o₀ n₀) l o n
  rw [h] at hc
  exact hc

theorem step_of_decode {s : State} {w : Word} {i : Instr} (hq : s.seq = .busy w .start) (ht : s.tickPending = 0)
    (hd : decode w = some i) :
    (s.env.upcoming = none → step s = exec i s) ∧
    (s.env.upcoming = some .run → step s = exec i s.dropInput) ∧
    (∀ m, isHostMove m = true → s.env.upcoming = some m → step s = exec i s) := by
  refine ⟨fun hu => ?_, fun hu => ?_, fun m hm hu => ?_⟩
  · rw [step_waiting (.inl hu), coreStep_of_decode hq ht hd]
  · rw [step_run hu, coreStep_of_decode (s := s.dropInput) hq ht hd]
  · rw [step_of_hostMove hu hm (.inl (by rw [hq]; nofun)), coreStep_of_decode hq ht hd]

/-- Settles O6: a STEP of the core commutes with exchanging the inputs to come (`coreStep_arriving`). -/
theorem stepRunsTheDecodedCommand : Obligations.StepRunsTheDecodedCommand := by
  unfold Obligations.StepRunsTheDecodedCommand
  constructor
  · intro s w i hq ht hd
    obtain ⟨hnone, hrun, hhost⟩ := step_of_decode hq ht hd
    refine ⟨hnone, fun rest hi => ?_, fun hi ho hf => ?_, fun v hu => hhost _ rfl hu, fun hu => hhost _ rfl hu⟩
    · obtain ⟨hu, ha⟩ := Env.upcoming_cons hi
      rw [hrun hu, State.dropInput_eq, ha]; rfl
    · obtain ⟨hu, ha⟩ := (Env.upcoming_nil hi).2 ho
      rw [hrun (hu.trans (congrArg some hf)), State.dropInput_eq, ha]; rfl
  · intro s t h
    have h0 : coreStep (s.arriving [] .quiet s.env.arrived) = .next t := by
      rw [← h]; exact (step_waiting (.inl rfl)).symm
    have hn : t.env.arrived = s.env.arrived := (coreStep_arrivals h0).2.2.1
    refine ⟨fun rest hi => ?_, fun hi ho hf => ?_, fun hw hu => ?_⟩
    · obtain ⟨hu, ha⟩ := Env.upcoming_cons hi
      rw [step_run hu, State.dropInput_eq, ha]
      refine (coreStep_of_arriving h0 rest s.env.onward s.env.arrived).trans ?_
      rw [← hn]; rfl
    · obtain ⟨hu, ha⟩ := (Env.upcoming_nil hi).2 ho
      rw [step_run (hu.trans (congrArg some hf)), State.dropInput_eq, ha]
      refine (congrArg coreStep ?_).trans (coreStep_of_arriving h0 [] .free (s.env.arrived + 1))
      simp only [State.arriving, hi, ho]
    · have hs : step s = coreStep s := by
        rcases hu with hu | ⟨v, hu⟩ <;> exact step_of_hostMove hu rfl hw
      rw [hs]
      refine (coreStep_of_arriving h0 s.env.inputs s.env.onward s.env.arrived).trans ?_
      rw [← hn]; rfl

/-! ## Acceptance (R21) -/

/-- Settles O7: in Idle the core's STEP is `acceptStep`. -/
theorem acceptanceHappensInIdle : Obligations.AcceptanceHappensInIdle := by
  unfold Obligations.AcceptanceHappensInIdle
  intro s ha hq
  have hs : step s = .next (acceptStep s) := by rw [step_alone ha, seqStep, hq]
  refine ⟨fun w hw => ?_, fun hw => ?_⟩ <;> rw [hs, acceptStep, hw]

/-! ## Reset (R42) -/

/-- Settles O11: within R10 no reset value is cut by its register's width. -/
theorem resetGivesTheListedValues : Obligations.ResetGivesTheListedValues := by
  unfold Obligations.ResetGivesTheListedValues
  refine ⟨rfl, fun c hc => ?_⟩
  have hthr : (State.resetOf c).thr.toNat = thresholdFor c c.targetDefault := thresholdFor_toNat ..
  have hframe (p : Position) : (Vector.replicate 6 blankDigit)[p] = 15#4 := Vector.getElem_replicate ..
  exact ⟨rfl, rfl, rfl, rfl, rfl, resetOf_pwmOn_toNat hc, resetOf_pwmTop_toNat hc, resetOf_target_toNat hc, hthr, rfl,
    rfl, rfl, rfl, fun p => ⟨hframe p, hframe p, resetOf_dwell_toNat hc p⟩, rfl, rfl, rfl, rfl, rfl, rfl, rfl, rfl, rfl⟩

end Sys2Proof.Machine
end

section
/-! SUPPORT. The register read and STATUS. -/

namespace Sys2Proof.Machine

open Sys2Proof.Safety

/-! ## The register read (R40, R108, R109) -/

/-- A mapped index answers its value in `res`, and writes nothing else but `seq`. -/
theorem exec_rdreg_of_regRead {x : BitVec 8} {s : State} {v : BitVec 16} (h : regRead x s = some v) :
    ∃ t, exec (.rdreg x) s = .next t ∧ t.res = v ∧ t = { s with res := t.res, seq := .idle } :=
  ⟨{ s with res := v, seq := .idle }, by simp only [exec, execRdreg, h], rfl, rfl⟩

theorem exec_rdreg_toNat {x : BitVec 8} {s : State} {v : BitVec 16} {n : Nat} (h : regRead x s = some v)
    (hn : v.toNat = n) :
    ∃ t, exec (.rdreg x) s = .next t ∧ t.res.toNat = n ∧ t = { s with res := t.res, seq := .idle } := by
  obtain ⟨t, ht, hv, hf⟩ := exec_rdreg_of_regRead h
  exact ⟨t, ht, by rw [hv, hn], hf⟩

/-- A register of fewer than 16 bits is zero-extended (R108). -/
theorem exec_rdreg_narrow {x : BitVec 8} {s : State} {n : Nat} {v : BitVec n} (hn : n ≤ 16)
    (h : regRead x s = some (v.setWidth 16)) :
    ∃ t, exec (.rdreg x) s = .next t ∧ t.res.toNat = v.toNat ∧ t = { s with res := t.res, seq := .idle } :=
  exec_rdreg_toNat h (BitVec.toNat_setWidth_of_le hn)

theorem regRead_live (p : Position) (s : State) :
    regRead (BitVec.ofNat 8 (0x10 + p.val)) s = some (s.live[p].setWidth 16) := by
  fin_cases p <;> rfl

theorem regRead_ovl (p : Position) (s : State) :
    regRead (BitVec.ofNat 8 (0x18 + p.val)) s = some (s.ovl[p].setWidth 16) := by
  fin_cases p <;> rfl

theorem regRead_dwell (p : Position) (s : State) :
    regRead (BitVec.ofNat 8 (0x20 + p.val)) s = some s.dwell[p] := by
  fin_cases p <;> rfl

/-- The two halves of a 32-bit register. -/
theorem extractLsb'_low_toNat (a : BitVec 32) : (a.extractLsb' 0 16).toNat = a.toNat % 2 ^ 16 := by
  rw [BitVec.extractLsb'_toNat, Nat.shiftRight_zero]

theorem extractLsb'_high_toNat (a : BitVec 32) : (a.extractLsb' 16 16).toNat = a.toNat / 2 ^ 16 := by
  have := a.isLt
  rw [BitVec.extractLsb'_toNat, Nat.shiftRight_eq_div_pow]
  omega

theorem exec_rdreg_illegal {x : BitVec 8} (h : (Instr.rdreg x).wellFormed = false) (s : State) :
    exec (.rdreg x) s = .next { s with err := true, seq := .idle } := by
  obtain ⟨t, ht⟩ := exec_next (.rdreg x) s
  rcases exec_cases ht with ⟨-, rfl⟩ | ⟨hw, -⟩
  · exact ht
  · rw [h] at hw; cases hw

theorem encode_rdreg_toNat (x : BitVec 8) : (encode (.rdreg x)).toNat = 0x40000000 + x.toNat * 2 ^ 16 := by
  rw [encode, packWord_toNat]
  simp only [opcode, operandA, operandB, BitVec.toNat_ofNat]
  omega

/-- Settles O53, index by index of the map of R40. -/
theorem rdregReadsTheMap : Obligations.RdregReadsTheMap := by
  unfold Obligations.RdregReadsTheMap
  refine ⟨encode_rdreg_toNat, fun s => ⟨fun x v hx => ?_, exec_rdreg_of_regRead rfl, fun p => ?_,
    fun x hx => exec_rdreg_illegal hx s⟩⟩
  · simp only [List.mem_cons, List.not_mem_nil, or_false, Prod.mk.injEq] at hx
    rcases hx with ⟨rfl, rfl⟩ | ⟨rfl, rfl⟩ | ⟨rfl, rfl⟩ | ⟨rfl, rfl⟩ | ⟨rfl, rfl⟩ | ⟨rfl, rfl⟩ | ⟨rfl, rfl⟩ |
      ⟨rfl, rfl⟩ | ⟨rfl, rfl⟩ | ⟨rfl, rfl⟩ | ⟨rfl, rfl⟩ | ⟨rfl, rfl⟩ | ⟨rfl, rfl⟩ | ⟨rfl, rfl⟩ | ⟨rfl, rfl⟩ | ⟨rfl, rfl⟩
    · exact exec_rdreg_toNat rfl rfl
    · exact exec_rdreg_toNat rfl rfl
    · exact exec_rdreg_toNat rfl rfl
    · exact exec_rdreg_narrow (by decide) rfl
    · exact exec_rdreg_toNat rfl rfl
    · exact exec_rdreg_narrow (by decide) rfl
    · exact exec_rdreg_narrow (by decide) rfl
    · exact exec_rdreg_narrow (by decide) rfl
    · exact exec_rdreg_narrow (by decide) rfl
    · exact exec_rdreg_toNat rfl (extractLsb'_low_toNat _)
    · exact exec_rdreg_toNat rfl (extractLsb'_high_toNat _)
    · exact exec_rdreg_narrow (by decide) rfl
    · exact exec_rdreg_narrow (by decide) rfl
    · exact exec_rdreg_narrow (by decide) rfl
    · exact exec_rdreg_narrow (by decide) rfl
    · exact exec_rdreg_narrow (by decide) rfl
  · exact ⟨exec_rdreg_narrow (by decide) (regRead_live p s), exec_rdreg_narrow (by decide) (regRead_ovl p s),
      exec_rdreg_of_regRead (regRead_dwell p s)⟩

/-! ## STATUS (R41, R124) -/

/-- STATUS as a number: each field at the weight of its lowest bit (R41). -/
theorem statusWord_toNat (s : State) :
    (statusWord s).toNat = s.err.toNat + 2 * s.halted.toNat + 4 * s.gate.toNat + 8 * s.hvlife.code.toNat +
      32 * s.ui.code.toNat + 256 * (reread s).toNat := by
  simp only [statusWord, toNat_append_eq, BitVec.toNat_ofBool, BitVec.toNat_ofNat]
  omega

theorem statusWord_getLsbD {s : State} {i : Nat} {b : Bool} (h : (statusWord s).toNat / 2 ^ i % 2 = b.toNat) :
    (statusWord s).getLsbD i = b := by
  rw [BitVec.getLsbD, Nat.testBit_eq_decide_div_mod_eq, h]
  cases b <;> rfl

theorem statusWord_extractLsb' (s : State) (i n : Nat) :
    ((statusWord s).extractLsb' i n).toNat = (statusWord s).toNat / 2 ^ i % 2 ^ n := by
  rw [BitVec.extractLsb'_toNat, Nat.shiftRight_eq_div_pow]

/-- Settles O54: each field is read off STATUS as a number. -/
theorem statusHasItsFields : Obligations.StatusHasItsFields := by
  unfold Obligations.StatusHasItsFields
  intro s
  have hn := statusWord_toNat s
  have he := s.err.toNat_le
  have hh := s.halted.toNat_le
  have hg := s.gate.toNat_le
  have hl := s.hvlife.code.isLt
  have hu := s.ui.code.isLt
  have hr := (reread s).toNat_le
  have hlife : ((statusWord s).extractLsb' 3 2).toNat = s.hvlife.code.toNat := by
    rw [statusWord_extractLsb']; omega
  have hui : ((statusWord s).extractLsb' 5 3).toNat = s.ui.code.toNat := by
    rw [statusWord_extractLsb']; omega
  have hreserved : (statusWord s).extractLsb' 9 7 = 0#7 := by
    apply BitVec.eq_of_toNat_eq
    rw [statusWord_extractLsb', BitVec.toNat_ofNat]; omega
  refine ⟨statusWord_getLsbD (by omega), statusWord_getLsbD (by omega), statusWord_getLsbD (by omega), ?_, ?_,
    statusWord_getLsbD (b := reread s) (by omega), hreserved, rfl, decide_eq_true_iff⟩
  · rw [hlife]; cases s.hvlife <;> rfl
  · rw [hui]; cases s.ui <;> rfl

end Sys2Proof.Machine
end

section
/-! SUPPORT. The persisted settings layout. -/

namespace Sys2Proof.Machine

/-! ## The two bytes of a 16-bit value (R45) -/

/-- The two bytes of a value are all of it, the high byte on top. -/
@[simp] theorem highByte_append_lowByte (v : BitVec 16) : highByte v ++ lowByte v = v :=
  (BitVec.extractLsb'_append_extractLsb'_eq_extractLsb' rfl).trans BitVec.extractLsb'_eq_self

theorem toNat_eq_lowByte_add_highByte (v : BitVec 16) :
    v.toNat = (lowByte v).toNat + 256 * (highByte v).toNat := by
  have h := toNat_append_eq (highByte v) (lowByte v)
  rw [highByte_append_lowByte] at h
  omega

/-! ## The layout (R45) -/

/-- Reading the settings back joins the bytes that the layout splits. -/
theorem settings_ofBytes_bytes (p : Settings) :
    Settings.ofBytes (lowByte p.pulse) (highByte p.pulse) p.target (lowByte p.period) (highByte p.period) p.calNeeded
      p.firstRun = p := by
  simp only [Settings.ofBytes, highByte_append_lowByte]

/-- Settles O55: the offsets and the cells are the layout's own, and each 16-bit value is its two bytes joined. -/
theorem settingsLayoutIsLittleEndian : Obligations.SettingsLayoutIsLittleEndian := by
  unfold Obligations.SettingsLayoutIsLittleEndian
  intro p
  exact ⟨lowByte p.pulse, highByte p.pulse, p.target, lowByte p.period, highByte p.period, p.calNeeded, p.firstRun,
    rfl, rfl, rfl, rfl, rfl, rfl, rfl, toNat_eq_lowByte_add_highByte p.pulse, rfl,
    toNat_eq_lowByte_add_highByte p.period, rfl, rfl, settings_ofBytes_bytes p, fun _ => rfl⟩

end Sys2Proof.Machine
end

section
/-! SUPPORT. Proofs of the family of 30_encoding.md. The opcode map by columns (R61): which operand fields a command
has, which bits of them it reserves, and the command that given fields spell. The decoder, the encoder and the table of
R62 are each tied to these columns once, and the round trip and the table statements follow. -/

namespace Sys2Proof

/-! ## The columns of the opcode map (R59, R61) -/

/-- Whether the command has an operand in A. -/
def usesA : Instr → Bool
  | .wrlive _ _ | .wrdwell _ _ | .showtime _ _ _ | .fault _ _ | .rdreg _ => true
  | _ => false

/-- How many low bits of B the command's operands fill. -/
def widthB : Instr → Nat
  | .seton _ | .settop _ | .thresh _ | .wrdwell _ _ | .showtime _ _ _ | .depoison _ => 16
  | .settgt _ => 8
  | .wrmask _ => 6
  | .bcd _ | .wrlive _ _ => 4
  | .fault _ _ => 1
  | _ => 0

/-- The command of the same row as `i` whose operands stand in the fields `a` and `b`. -/
def withFields (i : Instr) (a : BitVec 8) (b : BitVec 16) : Instr :=
  match i with
  | .seton _ => .seton b
  | .settop _ => .settop b
  | .settgt _ => .settgt (b.extractLsb' 0 8)
  | .thresh _ => .thresh b
  | .bcd _ => .bcd (b.extractLsb' 0 4)
  | .wrlive _ _ => .wrlive a (b.extractLsb' 0 4)
  | .wrmask _ => .wrmask (b.extractLsb' 0 6)
  | .wrdwell _ _ => .wrdwell a b
  | .showtime _ _ _ => .showtime a (b.extractLsb' 8 8) (b.extractLsb' 0 8)
  | .depoison _ => .depoison b
  | .fault _ _ => .fault a (b.getLsbD 0)
  | .rdreg _ => .rdreg a
  | i => i

/-- Every bit that the command reserves is 0 (R63). -/
def ReservedZero (i : Instr) (a : BitVec 8) (b : BitVec 16) : Prop :=
  (usesA i = true ∨ a = 0#8) ∧ b >>> widthB i = 0#16

/-- The row of R62 that the columns give: the mask has OP and the reserved bits. -/
def rowOf (i : Instr) : OpcodeRow :=
  ⟨packWord 0xFF#8 (bif usesA i then 0#8 else 0xFF#8) (0xFFFF#16 <<< widthB i), packWord (opcode i) 0#8 0#16⟩

/-! ## Low bits of B -/

theorem setWidth_extractLsb'_low {n : Nat} {b : BitVec 16} (h : b >>> n = 0#16) :
    (b.extractLsb' 0 n).setWidth 16 = b := by
  apply BitVec.eq_of_toNat_eq
  have hb := (shiftRight_eq_zero_iff b n).mp h
  rw [BitVec.toNat_setWidth, BitVec.extractLsb'_toNat, Nat.shiftRight_zero, Nat.mod_eq_of_lt hb,
    Nat.mod_eq_of_lt b.isLt]

theorem extractLsb'_low_setWidth {n : Nat} (hn : n ≤ 16) (v : BitVec n) : (v.setWidth 16).extractLsb' 0 n = v := by
  rw [← BitVec.setWidth_eq_extractLsb' hn, BitVec.setWidth_setWidth_of_le _ hn, BitVec.setWidth_eq]

theorem setWidth_shiftRight_eq_zero {n : Nat} (v : BitVec n) : v.setWidth 16 >>> n = 0#16 := by
  rw [shiftRight_eq_zero_iff, BitVec.toNat_setWidth]
  exact (Nat.mod_le _ _).trans_lt v.isLt

/-- A mask of ones from bit `n` up sees the same bits as a shift by `n`. -/
theorem and_shiftLeft_ones_eq_zero_iff (b : BitVec 16) (n : Nat) : b &&& 0xFFFF#16 <<< n = 0#16 ↔ b >>> n = 0#16 := by
  have hmask : b &&& 0xFFFF#16 <<< n = b >>> n <<< n := BitVec.shiftLeft_ushiftRight.symm
  have hle : b.toNat / 2 ^ n * 2 ^ n < 2 ^ 16 := (Nat.div_mul_le_self ..).trans_lt b.isLt
  rw [hmask, ← BitVec.toNat_inj, ← BitVec.toNat_inj, BitVec.toNat_shiftLeft, BitVec.toNat_ushiftRight,
    Nat.shiftRight_eq_div_pow, Nat.shiftLeft_eq, Nat.mod_eq_of_lt hle]
  simp

theorem setWidth_ofBool_bit_zero {b : BitVec 16} (h : b >>> 1 = 0#16) :
    (BitVec.ofBool (b.getLsbD 0)).setWidth 16 = b := by
  have hb := (shiftRight_eq_zero_iff b 1).mp h
  rw [← BitVec.and_one_eq_setWidth_ofBool_getLsbD]
  apply BitVec.eq_of_toNat_eq
  rw [BitVec.toNat_and, BitVec.toNat_ofNat, Nat.mod_eq_of_lt (by decide), Nat.and_one_is_mod]
  exact Nat.mod_eq_of_lt hb

/-! ## A command and its fields -/

/-- A command has 0 in every bit it reserves. -/
theorem reservedZero_operands (i : Instr) : ReservedZero i (operandA i) (operandB i) := by
  constructor
  · cases i with
    | wrlive | wrdwell | showtime | fault | rdreg => exact .inl rfl
    | _ => exact .inr rfl
  · cases i with
    | seton | settop | thresh | wrdwell | showtime | depoison => exact BitVec.ushiftRight_eq_zero le_rfl
    | settgt | bcd | wrlive | wrmask | fault => exact setWidth_shiftRight_eq_zero _
    | _ => rfl

/-- The fields of a command give the command back. -/
theorem withFields_operands (i : Instr) : withFields i (operandA i) (operandB i) = i := by
  cases i with
  | settgt v => exact congrArg Instr.settgt (extractLsb'_low_setWidth (by decide) v)
  | bcd d => exact congrArg Instr.bcd (extractLsb'_low_setWidth (by decide) d)
  | wrlive p d => exact congrArg (Instr.wrlive p) (extractLsb'_low_setWidth (by decide) d)
  | wrmask m => exact congrArg Instr.wrmask (extractLsb'_low_setWidth (by decide) m)
  | showtime h m s =>
    exact congrArg₂ (Instr.showtime h) BitVec.extractLsb'_append_eq_left BitVec.extractLsb'_append_eq_right
  | fault c blk =>
    have hbit : ((BitVec.ofBool blk).setWidth 16).getLsbD 0 = blk := by cases blk <;> rfl
    exact congrArg (Instr.fault c) hbit
  | _ => rfl

theorem operandA_withFields {i : Instr} {a : BitVec 8} {b : BitVec 16} (h : ReservedZero i a b) :
    operandA (withFields i a b) = a := by
  obtain ⟨ha, -⟩ := h
  cases i with
  | wrlive | wrdwell | showtime | fault | rdreg => rfl
  | _ => exact (ha.resolve_left Bool.false_ne_true).symm

theorem operandB_withFields {i : Instr} {a : BitVec 8} {b : BitVec 16} (h : ReservedZero i a b) :
    operandB (withFields i a b) = b := by
  obtain ⟨-, hb⟩ := h
  cases i with
  | settgt | bcd | wrlive | wrmask => exact setWidth_extractLsb'_low hb
  | showtime => exact Machine.highByte_append_lowByte b
  | fault => exact setWidth_ofBool_bit_zero hb
  | seton | settop | thresh | wrdwell | depoison => rfl
  | _ => exact hb.symm

theorem rowIndex_withFields (i : Instr) (a : BitVec 8) (b : BitVec 16) : rowIndex (withFields i a b) = rowIndex i := by
  cases i <;> rfl

/-! ## The decoder -/

section Forms

variable {i j k : Instr} {a : BitVec 8} {b : BitVec 16} {n : Nat}

theorem formF0_eq_some_iff (hA : usesA i = false) (hB : widthB i = 0) :
    formF0 a b k = some j ↔ ReservedZero i a b ∧ k = j := by
  simp [formF0, ReservedZero, hA, hB]

theorem formFB_eq_some_iff (hA : usesA i = false) (hB : widthB i = n) :
    formFB n a b k = some j ↔ ReservedZero i a b ∧ k = j := by
  simp [formFB, ReservedZero, hA, hB]

theorem formFAB_eq_some_iff (hA : usesA i = true) (hB : widthB i = n) :
    formFAB n b k = some j ↔ ReservedZero i a b ∧ k = j := by
  simp [formFAB, ReservedZero, hA, hB]

end Forms

/-- On the opcode of a command the decoder checks that command's reserved bits and reads its operands. -/
theorem decodeFields_opcode (i j : Instr) (a : BitVec 8) (b : BitVec 16) :
    decodeFields (opcode i) a b = some j ↔ ReservedZero i a b ∧ withFields i a b = j := by
  cases i with
  | seton | settop | settgt | thresh | bcd | wrmask | depoison => exact formFB_eq_some_iff rfl rfl
  | wrlive | wrdwell | showtime | fault | rdreg => exact formFAB_eq_some_iff rfl rfl
  | _ => exact formF0_eq_some_iff rfl rfl

/-- The decoder answers only with a command of the opcode it was given. -/
theorem opcode_of_decodeFields {op a : BitVec 8} {b : BitVec 16} {j : Instr} (h : decodeFields op a b = some j) :
    opcode j = op := by
  unfold decodeFields at h
  split at h <;>
    simp only [formF0, formFB, formFAB, Option.ite_none_right_eq_some, Option.some.injEq, reduceCtorEq] at h <;>
    obtain ⟨-, rfl⟩ := h <;>
    exact BitVec.eq_of_toNat_eq (Eq.symm ‹_›)

/-- A word spells a command exactly when it has the command's opcode, 0 in every bit that the command reserves, and the
command's operands. -/
theorem decode_eq_some_iff_fields (w : Word) (i : Instr) :
    decode w = some i ↔
      opField w = opcode i ∧ ReservedZero i (aField w) (bField w) ∧ withFields i (aField w) (bField w) = i := by
  constructor
  · intro h
    have hop := opcode_of_decodeFields h
    rw [decode, ← hop, decodeFields_opcode] at h
    exact ⟨hop.symm, h⟩
  · rintro ⟨hop, h⟩
    rw [decode, hop, decodeFields_opcode]
    exact h

/-- Decoding the word of a command gives the command. -/
@[simp] theorem decode_encode (i : Instr) : decode (encode i) = some i := by
  obtain ⟨hop, ha, hb⟩ := Laws.Spelling.fields i
  rw [decode_eq_some_iff_fields, hop, ha, hb]
  exact ⟨rfl, reservedZero_operands i, withFields_operands i⟩

/-- A word that spells a command is the word of that command. -/
theorem encode_of_decode {w : Word} {i : Instr} (h : decode w = some i) : encode i = w := by
  obtain ⟨hop, hzero, hi⟩ := (decode_eq_some_iff_fields w i).mp h
  have ha := operandA_withFields hzero
  have hb := operandB_withFields hzero
  rw [hi] at ha hb
  rw [encode, ← hop, ha, hb, packWord_fields]

theorem decode_eq_some_iff (w : Word) (i : Instr) : decode w = some i ↔ encode i = w :=
  ⟨encode_of_decode, fun h => h ▸ decode_encode i⟩

/-- A 32-bit word given as a number is read whole (R65). -/
theorem decodeTableWord_toNat (w : Word) : decodeTableWord 32 w.toNat = decode w := by
  rw [decodeTableWord, Nat.mod_eq_of_lt w.isLt, BitVec.ofNat_toNat, BitVec.setWidth_eq]

/-- Settles O1: a command has its opcode and no reserved bit set, and its fields spell it. -/
theorem decodeReadsEveryEncodedCommand : Obligations.DecodeReadsEveryEncodedCommand := by
  unfold Obligations.DecodeReadsEveryEncodedCommand
  intro i
  exact ⟨decode_encode i, (decodeTableWord_toNat _).trans (decode_encode i)⟩

/-- Settles O2: once the reserved bits are 0 the command's operands are the word's fields, so no bit is ignored. -/
theorem encodeReturnsTheDecodedWord : Obligations.EncodeReturnsTheDecodedWord := by
  unfold Obligations.EncodeReturnsTheDecodedWord
  intro w i
  exact (decode_eq_some_iff w i).mp

/-! ## The mask/match table (R62) -/

theorem packWord_and (op op' a a' : BitVec 8) (b b' : BitVec 16) :
    packWord op a b &&& packWord op' a' b' = packWord (op &&& op') (a &&& a') (b &&& b') :=
  BitVec.and_append.trans (congrArg (· ++ (b &&& b')) BitVec.and_append)

theorem packWord_inj {op op' a a' : BitVec 8} {b b' : BitVec 16} :
    packWord op a b = packWord op' a' b' ↔ op = op' ∧ a = a' ∧ b = b' := by
  constructor
  · intro h
    have hop := congrArg opField h
    have ha := congrArg aField h
    have hb := congrArg bField h
    simp only [opField_packWord, aField_packWord, bField_packWord] at hop ha hb
    exact ⟨hop, ha, hb⟩
  · rintro ⟨rfl, rfl, rfl⟩
    rfl

/-- Below OP the match of a row is 0. -/
theorem packWord_zero (op : BitVec 8) : packWord op 0#8 0#16 = op ++ 0#24 := by
  apply BitVec.eq_of_toNat_eq
  rw [packWord_toNat, toNat_append_eq]
  simp only [BitVec.toNat_ofNat]
  omega

/-- The table of R62 is the one that the columns give. -/
theorem opcodeRows_rowIndex (i : Instr) : opcodeRows[rowIndex i]? = some (rowOf i) := by
  cases i <;> simp only [rowOf, rowIndex, opcode, usesA, widthB] <;> decide

/-- A word matches a command's row exactly when it has the command's opcode and 0 in every bit that the command
reserves. -/
theorem rowOf_spells (i : Instr) (w : Word) :
    (rowOf i).spells w = true ↔ opField w = opcode i ∧ ReservedZero i (aField w) (bField w) := by
  have hop : opField w &&& 0xFF#8 = opField w := BitVec.and_allOnes
  have ha : aField w &&& (bif usesA i then 0#8 else 0xFF#8) = 0#8 ↔ usesA i = true ∨ aField w = 0#8 := by
    have hones : aField w &&& 0xFF#8 = aField w := BitVec.and_allOnes
    cases usesA i <;> simp [hones]
  have hw : w &&& (rowOf i).mask = packWord (opField w &&& 0xFF#8)
      (aField w &&& (bif usesA i then 0#8 else 0xFF#8)) (bField w &&& 0xFFFF#16 <<< widthB i) := by
    rw [← packWord_and, packWord_fields, rowOf]
  rw [OpcodeRow.spells, beq_iff_eq, hw, rowOf, packWord_inj, hop, ha, and_shiftLeft_ones_eq_zero_iff, ReservedZero]

/-- A command for each row of R62. -/
def oneOfEachRow : List Instr :=
  [.hven, .hvdis, .seton 0#16, .settop 0#16, .settgt 0#8, .thresh 0#16, .sample, .regstep, .cal, .bcd 0#4,
   .wrlive 0#8 0#4, .wrmask 0#6, .wrdwell 0#8 0#16, .showtime 0#8 0#8 0#8, .render, .depoison 0#16, .fault 0#8 false,
   .btnmode, .btnadj, .rdreg 0#8]

theorem exists_rowIndex {k : Nat} (h : k < opcodeRows.length) : ∃ i, rowIndex i = k := by
  have hrows : ∀ k < opcodeRows.length, ∃ i ∈ oneOfEachRow, rowIndex i = k := by decide
  obtain ⟨i, -, hi⟩ := hrows k h
  exact ⟨i, hi⟩

/-- The words that match row `k` are those that decode to a command of row `k`. -/
theorem spells_iff_decode {k : Nat} {r : OpcodeRow} (hr : opcodeRows[k]? = some r) (w : Word) :
    r.spells w = true ↔ ∃ j, decode w = some j ∧ rowIndex j = k := by
  constructor
  · intro hw
    obtain ⟨hk, -⟩ := List.getElem?_eq_some_iff.mp hr
    obtain ⟨i, rfl⟩ := exists_rowIndex hk
    obtain rfl : rowOf i = r := Option.some.inj ((opcodeRows_rowIndex i).symm.trans hr)
    obtain ⟨hop, hzero⟩ := (rowOf_spells i w).mp hw
    refine ⟨withFields i (aField w) (bField w), ?_, rowIndex_withFields ..⟩
    rw [decode, hop, decodeFields_opcode]
    exact ⟨hzero, rfl⟩
  · rintro ⟨j, hj, rfl⟩
    obtain rfl : rowOf j = r := Option.some.inj ((opcodeRows_rowIndex j).symm.trans hr)
    obtain ⟨hop, hzero, -⟩ := (decode_eq_some_iff_fields w j).mp hj
    exact (rowOf_spells j w).mpr ⟨hop, hzero⟩

/-- A word decodes exactly when some row of the table matches it. -/
theorem decode_isSome_eq_any_spells (w : Word) : (decode w).isSome = opcodeRows.any fun r => r.spells w := by
  rw [Bool.eq_iff_iff, Option.isSome_iff_exists, List.any_eq_true]
  constructor
  · rintro ⟨i, hi⟩
    exact ⟨rowOf i, List.mem_of_getElem? (opcodeRows_rowIndex i),
      (spells_iff_decode (opcodeRows_rowIndex i) w).mpr ⟨i, hi, rfl⟩⟩
  · rintro ⟨r, hr, hw⟩
    obtain ⟨k, hk⟩ := List.mem_iff_getElem?.mp hr
    obtain ⟨i, hi, -⟩ := (spells_iff_decode hk w).mp hw
    exact ⟨i, hi⟩

/-- Settles O3: two rows that match one word are both the row of the one command it decodes to. -/
theorem decoderFollowsTheMaskTable : Obligations.DecoderFollowsTheMaskTable := by
  unfold Obligations.DecoderFollowsTheMaskTable
  refine ⟨decode_isSome_eq_any_spells, fun w i hi => ?_, fun i => ?_, fun w m n r r' hr hr' hw hw' => ?_⟩
  · exact ⟨rowOf i, opcodeRows_rowIndex i, (spells_iff_decode (opcodeRows_rowIndex i) w).mpr ⟨i, hi, rfl⟩⟩
  · exact ⟨rowOf i, opcodeRows_rowIndex i, packWord_zero (opcode i)⟩
  · obtain ⟨i, hi, rfl⟩ := (spells_iff_decode hr w).mp hw
    obtain ⟨j, hj, rfl⟩ := (spells_iff_decode hr' w).mp hw'
    rw [Option.some.inj (hi.symm.trans hj)]

/-- Settles O4: each word is the word of its command, and the last four have an opcode of no command or a reserved bit
set. -/
theorem vectorWordsDecode : Obligations.VectorWordsDecode := by
  unfold Obligations.VectorWordsDecode
  exact ⟨decode_encode .hven, decode_encode (.seton 10000#16), decode_encode (.settgt 190#8),
    decode_encode (.wrlive 5#8 15#4), decode_encode (.wrmask 0b110001#6), decode_encode (.wrdwell 2#8 100#16),
    decode_encode (.showtime 23#8 59#8 59#8), decode_encode (.depoison 5#16), decode_encode (.fault 0#8 true),
    decode_encode .btnadj, decode_encode (.rdreg 0x22#8), by decide, by decide, by decide, by decide⟩

end Sys2Proof
end

section
/-! SUPPORT. Proofs of the family of 30_encoding.md: the operand ranges of R61 and the assembler of R66 and R67. -/

namespace Sys2Proof

/-! ## Operand ranges (R61) -/

/-- The mapped indices, as R40 lists them. -/
theorem isMappedIndex_iff (x : BitVec 8) : Machine.isMappedIndex x = true ↔
    x.toNat ≤ 0x0B ∨ (0x10 ≤ x.toNat ∧ x.toNat ≤ 0x15) ∨ (0x18 ≤ x.toNat ∧ x.toNat ≤ 0x1D) ∨
      (0x20 ≤ x.toNat ∧ x.toNat ≤ 0x25) ∨ (0x28 ≤ x.toNat ∧ x.toNat ≤ 0x2C) := by
  simp only [Machine.isMappedIndex, Bool.or_eq_true, Bool.and_eq_true, decide_eq_true_iff, or_assoc]

/-- Settles O5: each range check as a bound on its operand. -/
theorem wellFormedIsTheRangeTable : Obligations.WellFormedIsTheRangeTable := by
  unfold Obligations.WellFormedIsTheRangeTable
  refine ⟨Machine.isDigitValue_iff, fun p d => ?_, fun p _ => Machine.position?_isSome p, fun h m n => ?_,
    fun _ _ => decide_eq_true_iff, isMappedIndex_iff, fun _ _ _ => rfl⟩
  · rw [Instr.wellFormed, Bool.and_eq_true, Machine.position?_isSome, Machine.isDigitValue_iff]
  · simp only [Instr.wellFormed, Machine.isHour, Machine.isMinSec, Bool.and_eq_true, decide_eq_true_iff, and_assoc]

/-! ## The assembler (R66, R67) -/

theorem fit_toNat {n : Nat} (v : BitVec n) : Machine.fit n v.toNat = some v := by
  rw [Machine.fit, if_pos v.isLt, BitVec.ofNat_toNat, BitVec.setWidth_eq]

theorem fit_eq_none {width n : Nat} (h : 2 ^ width ≤ n) : Machine.fit width n = none := by
  rw [Machine.fit, if_neg (Nat.not_lt.mpr h)]

theorem assembleLine_blank (x : Nat) :
    Machine.assembleLine "BLANK" [x] = (Machine.fit 8 x).map fun p => .wrlive p blankDigit := rfl

theorem assembleLine_setfreq (x : Nat) : Machine.assembleLine "SETFREQ" [x] = (Machine.fit 16 x).map .settop := rfl

theorem assembleLine_seton (x : Nat) : Machine.assembleLine "SETON" [x] = (Machine.fit 16 x).map .seton := rfl

/-- Settles O57: an operand of its field's width fits, and a wider one does not. -/
theorem pseudoInstructionsExpand : Obligations.PseudoInstructionsExpand := by
  unfold Obligations.PseudoInstructionsExpand
  refine ⟨fun p => ?_, rfl, rfl, rfl, fun v => ?_, fun v hv => ?_, by decide⟩
  · rw [assembleLine_blank, fit_toNat]; rfl
  · rw [assembleLine_setfreq, fit_toNat]; rfl
  · rw [assembleLine_seton, fit_eq_none hv]; rfl

end Sys2Proof
end

section
/-! SUPPORT. Proofs of the family of 40_hv_regulator.md, the one-STEP commands: the words of the commands with one
operand, and what SetPulseWidth, SetPeriod, SampleSmoothed and RegCore leave in the registers, as numbers. -/

namespace Sys2Proof.Machine

open Sys2Proof.Safety

/-! ## Words without an A operand (R58, R61) -/

theorem encode_toNat_of_operandB {i : Instr} {op n : Nat} (hop : (opcode i).toNat * 2 ^ 24 = op)
    (ha : operandA i = 0#8) (hb : (operandB i).toNat = n) : (encode i).toNat = op + n := by
  have hsplit : ((opcode i).toNat * 2 ^ 8 + 0) * 2 ^ 16 = op := by
    rw [← hop, Nat.add_zero, Nat.mul_assoc, ← Nat.pow_add]
  rw [encode, packWord_toNat, ha, hb]
  exact congrArg (· + n) hsplit

/-! ## HVEN and HVDIS (R72, R73) -/

/-- Settles O17: HVEN writes `hvlife` only where it is Disabled. -/
theorem hvenAndHvdisSwitchTheGate : Obligations.HvenAndHvdisSwitchTheGate := by
  unfold Obligations.HvenAndHvdisSwitchTheGate
  refine ⟨by decide, by decide, fun s => ⟨fun h => ?_, fun h => ?_, rfl⟩⟩
  · simp only [exec, execHven, if_pos h]
  · simp only [exec, execHven, if_neg h]

/-! ## The pulse width (R74) -/

theorem setPulseWidth_pwmOn_toNat (v : Nat) {s : State} (hv : s.cfg.Valid) :
    (setPulseWidth v s).pwmOn.toNat = min (max v s.cfg.pulseMin) s.cfg.pulseMax := by
  obtain ⟨o, ho, -, -, hon, -⟩ := setPulseWidth_spec v hv
  rw [clamp_natCast, Int.natCast_inj] at ho
  rw [hon, ho]

/-- The period is raised to the margin above the new pulse width, or kept. -/
theorem setPulseWidth_pwmTop_toNat (v : Int) {s : State} (hv : s.cfg.Valid) :
    (setPulseWidth v s).pwmTop.toNat =
      (if s.pwmTop.toNat < (setPulseWidth v s).pwmOn.toNat + s.cfg.margin
       then (setPulseWidth v s).pwmOn.toNat + s.cfg.margin else s.pwmTop.toNat) := by
  obtain ⟨o, -, -, -, hon, htop⟩ := setPulseWidth_spec v hv
  rw [htop, hon]

/-- The pulse width is clamped alike again, and the period already keeps the margin. -/
theorem setPulseWidth_setPulseWidth (v : Int) {s : State} (hv : s.cfg.Valid) :
    setPulseWidth v (setPulseWidth v s) = setPulseWidth v s := by
  obtain ⟨o, -, -, -, hon, htop⟩ := setPulseWidth_spec v hv
  obtain ⟨o', -, -, -, hon', htop'⟩ := setPulseWidth_spec (s := setPulseWidth v s) v hv
  have ho : o' = o := hon'.symm.trans hon
  have hkeep : (setPulseWidth v (setPulseWidth v s)).pwmTop = (setPulseWidth v s).pwmTop := by
    apply BitVec.eq_of_toNat_eq
    rw [htop', htop, ho, setPulseWidth_cfg]
    split_ifs <;> omega
  calc setPulseWidth v (setPulseWidth v s)
      = { setPulseWidth v s with pwmTop := (setPulseWidth v (setPulseWidth v s)).pwmTop } := rfl
    _ = setPulseWidth v s := by rw [hkeep]

/-- Settles O18: SETON is SetPulseWidth of its operand. -/
theorem setonClampsAndRaisesThePeriod : Obligations.SetonClampsAndRaisesThePeriod := by
  unfold Obligations.SetonClampsAndRaisesThePeriod
  exact ⟨fun v => encode_toNat_of_operandB (by simp [opcode]) rfl rfl,
    fun s v hv => ⟨(setPulseWidth v.toNat s).finish, rfl, setPulseWidth_pwmOn_toNat v.toNat hv,
      setPulseWidth_pwmTop_toNat v.toNat hv, rfl⟩⟩

/-! ## The period (R75) -/

theorem setPeriod_pwmTop_toNat (v : Int) {s : State} (hv : s.cfg.Valid) (hp : s.pwmOn.toNat ≤ s.cfg.pulseMax) :
    ((setPeriod v s).pwmTop.toNat : Int) =
      max (min (max v s.cfg.topMin) s.cfg.topMax) (s.pwmOn.toNat + s.cfg.margin) := by
  obtain ⟨p, hcl, -, -, htop⟩ := setPeriod_spec v hv hp
  rw [← clamp, hcl, htop]
  omega

/-- Settles O19: SETTOP is SetPeriod of its operand, and a pulse width within R24 leaves room for the margin. -/
theorem settopClampsAboveThePulse : Obligations.SettopClampsAboveThePulse := by
  unfold Obligations.SettopClampsAboveThePulse
  refine ⟨fun v => encode_toNat_of_operandB (by simp [opcode]) rfl rfl,
    fun s v hv hr => ⟨(setPeriod v.toNat s).finish, rfl, ?_, ?_, rfl⟩⟩
  · obtain ⟨-, hon, -⟩ := hr
    have htop := setPeriod_pwmTop_toNat v.toNat hv hon
    rw [State.finish_eq, State.withSeq_pwmTop]
    omega
  · obtain ⟨-, -, -, hle, -⟩ := setPeriod_inRange v.toNat hv hr
    exact hle

/-- Settles O20: SetPulseWidth repeats itself, and SetPeriod does not read the period it replaces. -/
theorem setonAndSettopAreIdempotent : Obligations.SetonAndSettopAreIdempotent := by
  unfold Obligations.SetonAndSettopAreIdempotent
  refine fun s v hv => ⟨fun t ht => ?_, fun t ht => ?_⟩ <;> cases ht
  · change Host.Outcome.next (setPulseWidth v.toNat (setPulseWidth v.toNat s)).finish = _
    rw [setPulseWidth_setPulseWidth _ hv]
  · rfl

/-! ## The thresholds (R69, R76, R77) -/

/-- Settles O22: ThresholdFor fits its 16-bit register. -/
theorem settgtAndThreshComputeThresholds : Obligations.SettgtAndThreshComputeThresholds := by
  unfold Obligations.SettgtAndThreshComputeThresholds
  exact fun s v u => ⟨encode_toNat_of_operandB (by simp [opcode]) rfl (BitVec.toNat_setWidth_of_le (by decide)),
    encode_toNat_of_operandB (by simp [opcode]) rfl rfl,
    ⟨_, rfl, thresholdFor_toNat s.cfg v.toNat, rfl⟩, ⟨_, rfl, thresholdFor_toNat s.cfg u.toNat, rfl⟩⟩

/-! ## The moving average (R70, R78) -/

section Average

variable {s : State} (hv : s.cfg.Valid) (ha : AccOk s)
include hv ha

theorem sampleSmoothed_acc_first (hs : s.seeded = false) : (sampleSmoothed s).acc.toNat = adcDraw s * 800 := by
  rw [sampleSmoothed_acc_toNat hv ha, nextAcc, hs]; rfl

theorem sampleSmoothed_acc_later (hs : s.seeded = true) :
    (sampleSmoothed s).acc.toNat = s.acc.toNat - s.acc.toNat / 800 + adcDraw s := by
  rw [sampleSmoothed_acc_toNat hv ha, nextAcc, hs]; rfl

/-- A reading fits `res`: it is at most the sensor's full scale, of at most 16 bits. -/
theorem reading_sampleSmoothed_toNat :
    (BitVec.ofNat 16 (reading (sampleSmoothed s))).toNat = (sampleSmoothed s).acc.toNat / 800 := by
  have hle : reading (sampleSmoothed s) ≤ 2 ^ s.cfg.adcBits - 1 := reading_le (sampleSmoothed_accOk hv ha)
  obtain ⟨-, -, -, -, -, -, -, -, -, -, -, -, -, hbits, -⟩ := hv
  have hpow : 2 ^ s.cfg.adcBits ≤ 2 ^ 16 := Nat.pow_le_pow_right (by decide) hbits
  rw [BitVec.toNat_ofNat]
  exact Nat.mod_eq_of_lt (by omega)

end Average

/-- Settles O23: SAMPLE is SampleSmoothed with its reading in `res`. -/
theorem sampleFoldsOneReading : Obligations.SampleFoldsOneReading := by
  unfold Obligations.SampleFoldsOneReading
  exact ⟨by decide, fun s hv ha => ⟨_, rfl, adcDraw_le s, fun r rest => adcDraw_queued, sampleSmoothed_acc_first hv ha,
    sampleSmoothed_acc_later hv ha, reading_sampleSmoothed_toNat hv ha, rfl, rfl, rfl⟩⟩

/-- Settles O24: the average gives up `acc div 800` and takes up the raw sample. -/
theorem sampleMovesTowardTheInput : Obligations.SampleMovesTowardTheInput := by
  unfold Obligations.SampleMovesTowardTheInput
  intro s t hv ha hs ht
  cases ht
  have hacc := sampleSmoothed_acc_later hv ha hs
  have hdiv := Nat.div_le_self s.acc.toNat 800
  refine ⟨fun h => BitVec.eq_of_toNat_eq (hacc.trans ?_), fun h => lt_of_lt_of_eq ?_ hacc.symm,
    fun h => lt_of_eq_of_lt hacc ?_⟩ <;> omega

/-! ## The regulation step (R71, R79) -/

/-- RegCore writes the period besides what SampleSmoothed writes. -/
theorem regCore_frame (t : Nat) (s : State) :
    regCore t s = { sampleSmoothed s with pwmTop := (regCore t s).pwmTop } := by
  simp only [regCore]; split <;> rfl

theorem regStepSize_table (r t : Nat) :
    (regStepSize r t : Int) =
      if 20 < ((r : Int) - t).natAbs then 50 else if 10 < ((r : Int) - t).natAbs then 5 else 1 := by
  simp only [regStepSize, Config.regFar, Config.regNear, gt_iff_lt]
  split_ifs <;> rfl

/-- The period moves by the step size, up below the threshold and down from it on, and is then set by SetPeriod. -/
theorem regCore_pwmTop_toNat (t : Nat) {s : State} (hv : s.cfg.Valid) (hr : PwmInRange s) :
    ((regCore t s).pwmTop.toNat : Int) =
      max (min (max
        (if reading (sampleSmoothed s) < t
         then s.pwmTop.toNat + (regStepSize (reading (sampleSmoothed s)) t : Int)
         else s.pwmTop.toNat - (regStepSize (reading (sampleSmoothed s)) t : Int)) s.cfg.topMin) s.cfg.topMax)
        (s.pwmOn.toNat + s.cfg.margin) := by
  obtain ⟨-, hon, -⟩ := hr
  simp only [regCore]
  split <;> exact setPeriod_pwmTop_toNat (s := sampleSmoothed s) _ hv hon

/-- Settles O25: REGSTEP is RegCore against `thr` with its reading in `res`. -/
theorem regstepMovesThePeriod : Obligations.RegstepMovesThePeriod := by
  unfold Obligations.RegstepMovesThePeriod
  refine ⟨by decide, fun s hv ha hr => ?_⟩
  have hres := reading_sampleSmoothed_toNat hv ha
  have hexec : exec .regstep s = .next { s with
      acc := (sampleSmoothed s).acc, seeded := true, res := BitVec.ofNat 16 (reading (sampleSmoothed s))
      pwmTop := (regCore s.thr.toNat s).pwmTop, env := (popAdc s).env, seq := .idle } := by
    simp only [exec, execRegstep, reading_regCore]
    rw [regCore_frame]; rfl
  refine ⟨_, hexec, hres, ⟨regStepSize (reading (sampleSmoothed s)) s.thr.toNat, ?_, ?_⟩,
    sampleSmoothed_acc_first hv ha, sampleSmoothed_acc_later hv ha, rfl, rfl⟩
  · dsimp only; rw [hres]; exact regStepSize_table ..
  · dsimp only; rw [hres]; exact regCore_pwmTop_toNat _ hv hr

end Sys2Proof.Machine
end

section
/-! SUPPORT. Proofs of the family of 40_hv_regulator.md, CAL: each STEP of the search is one operation on the regulator,
and then the next place. -/

namespace Sys2Proof.Machine

open Sys2Proof.Safety

/-! ## The STEPs of the search (R80) -/

theorem step_calSearch {s t : State} {w : Word} {c : CalCtx} {k : CalStep} (ha : Alone s)
    (hq : s.seq = .busy w (.cal c (.search k))) (ht : calSearch w c k s = t) : step s = .next t := by
  rw [step_alone ha, seqStep, hq, ← ht]; rfl

section SamplingSteps

variable {w : Word} {c : CalCtx} {s : State} {j : Nat} {bottom : BitVec 16}

theorem calSearch_sample2_below (h : reading (sampleSmoothed s) < c.thrNom.toNat) :
    calSearch w c (.sample2 j) s = calDisplay w c (.sample2 (j + 1)) (calRaise j (sampleSmoothed s)) :=
  if_pos h

theorem calSearch_sample2_reached (h : c.thrNom.toNat ≤ reading (sampleSmoothed s)) :
    calSearch w c (.sample2 j) s = calGo w c (.search .begin3) (sampleSmoothed s) :=
  if_neg (Nat.not_lt.mpr h)

theorem calSearch_sample3_above (h : c.thrNom.toNat < reading (sampleSmoothed s)) :
    calSearch w c (.sample3 bottom j) s =
      calDisplay w c (.sample3 bottom (j + 1)) (calLower j (sampleSmoothed s)) :=
  if_pos h

theorem calSearch_sample3_reached (h : reading (sampleSmoothed s) ≤ c.thrNom.toNat) :
    calSearch w c (.sample3 bottom j) s = calGo w c (.search (.settle bottom)) (sampleSmoothed s) :=
  if_neg (Nat.not_lt.mpr h)

end SamplingSteps

/-- The pulse width rises on every 8th reading alone, and never above its greatest value (R80). -/
theorem calRaise_pwm (j : Nat) {s : State} (hv : s.cfg.Valid) (hr : PwmInRange s) :
    ((j + 1) % 8 = 0 → (calRaise j s).pwmOn.toNat = min (s.pwmOn.toNat + 1) s.cfg.pulseMax ∧
      (calRaise j s).pwmTop.toNat =
        (if s.pwmTop.toNat < (calRaise j s).pwmOn.toNat + s.cfg.margin
         then (calRaise j s).pwmOn.toNat + s.cfg.margin else s.pwmTop.toNat)) ∧
    ((j + 1) % 8 ≠ 0 → (calRaise j s).pwmOn = s.pwmOn ∧ (calRaise j s).pwmTop = s.pwmTop) := by
  refine ⟨fun h => ?_, fun h => ?_⟩
  · have hj : calRaise j s = setPulseWidth ((s.pwmOn.toNat + 1 : Nat) : Int) s := if_pos h
    obtain ⟨hlo, -⟩ := hr
    rw [hj]
    refine ⟨?_, setPulseWidth_pwmTop_toNat _ hv⟩
    rw [setPulseWidth_pwmOn_toNat _ hv, Nat.max_eq_left (by omega)]
  · have hj : calRaise j s = s := if_neg h
    rw [hj]
    exact ⟨rfl, rfl⟩

/-- The pulse width falls on every 8th reading alone, and never below its least value; the period has room for it
(R80). -/
theorem calLower_pwm (j : Nat) {s : State} (hv : s.cfg.Valid) (hr : PwmInRange s) :
    ((j + 1) % 8 = 0 → (calLower j s).pwmOn.toNat = max (s.pwmOn.toNat - 1) s.cfg.pulseMin ∧
      (calLower j s).pwmTop = s.pwmTop) ∧
    ((j + 1) % 8 ≠ 0 → (calLower j s).pwmOn = s.pwmOn ∧ (calLower j s).pwmTop = s.pwmTop) := by
  refine ⟨fun h => ?_, fun h => ?_⟩
  · have hj : calLower j s = setPulseWidth (s.pwmOn.toNat - 1) s := if_pos h
    obtain ⟨hlo, hhi, -, -, hm⟩ := hr
    obtain ⟨o, ho, -, -, hon, htop⟩ := setPulseWidth_spec (s.pwmOn.toNat - 1) hv
    have hval : o = max (s.pwmOn.toNat - 1) s.cfg.pulseMin := by
      simp only [clamp] at ho; omega
    rw [hj]
    refine ⟨hon.trans hval, BitVec.eq_of_toNat_eq ?_⟩
    rw [htop, if_neg (by omega)]
  · have hj : calLower j s = s := if_neg h
    rw [hj]
    exact ⟨rfl, rfl⟩

/-- A STEP that folds one sample, moves the pulse width and the period, and goes on behind the display passes drawn:
where it goes, what it draws, and its frame (R80). -/
theorem calDisplay_after_sample {s u t : State} {o p : BitVec 16} (w : Word) (c : CalCtx) (a : CalStep)
    (hu : u = { sampleSmoothed s with pwmOn := o, pwmTop := p }) (ht : t = calDisplay w c a u) :
    t.acc = (sampleSmoothed s).acc ∧ t.seeded = true ∧
    (passesDraw 0 (popAdc s) = 0 → t.seq = .busy w (.cal c (.search a))) ∧
    (∀ n, passesDraw 0 (popAdc s) = n + 1 → t.seq = .busy w (.cal c (.content (n + 1) a))) ∧
    t.env = (popPasses (popAdc s)).env ∧
    t = { s with pwmOn := t.pwmOn, pwmTop := t.pwmTop, acc := t.acc, seeded := true, seq := t.seq, env := t.env } := by
  have hseq : t.seq = .busy w (.cal c
      (if passesDraw 0 (popAdc s) = 0 then .search a else .content (passesDraw 0 (popAdc s)) a)) := by
    rw [ht, hu]; rfl
  refine ⟨by rw [ht, hu]; rfl, by rw [ht, hu]; rfl, fun h => ?_, fun n h => ?_, by rw [ht, hu]; rfl,
    by rw [ht, hu]; rfl⟩
  · rw [hseq, if_pos h]
  · rw [hseq, h, if_neg n.succ_ne_zero]

/-- Settles O28: pass 2 goes on or ends by the reading (`calSearch_sample2_below`, `calSearch_sample2_reached`). -/
theorem calPassTwoRaisesThePulse : Obligations.CalPassTwoRaisesThePulse := by
  unfold Obligations.CalPassTwoRaisesThePulse
  intro s w c j hv hr ha hq
  rcases Nat.lt_or_ge (reading (sampleSmoothed s)) c.thrNom.toNat with hlt | hge
  · obtain ⟨o, p, hu⟩ := calRaise_shape j (sampleSmoothed s)
    obtain ⟨hacc, hseeded, hnone, hsome, henv, hframe⟩ := calDisplay_after_sample w c (.sample2 (j + 1)) hu rfl
    obtain ⟨heighth, hother⟩ := calRaise_pwm j (s := sampleSmoothed s) hv hr
    refine ⟨_, step_calSearch ha hq (calSearch_sample2_below hlt), hacc, hseeded, fun h => ?_,
      fun _ => ⟨hnone, hsome, henv, heighth, hother⟩, hframe⟩
    rw [hacc] at h
    exact absurd hlt (Nat.not_lt.mpr h)
  · exact ⟨_, step_calSearch ha hq (calSearch_sample2_reached hge), rfl, rfl, fun _ => ⟨rfl, rfl, rfl, rfl⟩,
      fun h => absurd h (Nat.not_lt.mpr hge), rfl⟩

/-- What follows a regulation STEP of passes 1 and 4 with `left` iterations left. -/
theorem calPass1_pred (left : Nat) : calPass1 (left - 1) = if left ≤ 1 then .begin2 else .regulate1 (left - 1) := by
  simp only [calPass1, Nat.sub_eq_zero_iff_le]

theorem calPass4_pred (bottom topb : BitVec 16) (left : Nat) :
    calPass4 bottom topb (left - 1) = if left ≤ 1 then .restore else .regulate4 bottom topb (left - 1) := by
  simp only [calPass4, Nat.sub_eq_zero_iff_le]

/-- Settles O29: a sampling STEP of pass 3 goes on or ends by the reading, and a regulation STEP is RegCore against the
calibration threshold before CalDisplay. -/
theorem calPassThreeLowersThePulse : Obligations.CalPassThreeLowersThePulse := by
  unfold Obligations.CalPassThreeLowersThePulse
  refine ⟨fun s w c bottom j hv hr ha hq => ?_, fun s w c bottom topb left k k' hv hr ha hq hk => ?_⟩
  · rcases Nat.lt_or_ge c.thrNom.toNat (reading (sampleSmoothed s)) with hgt | hle
    · obtain ⟨o, p, hu⟩ := calLower_shape j (sampleSmoothed s)
      obtain ⟨hacc, hseeded, hnone, hsome, henv, hframe⟩ :=
        calDisplay_after_sample w c (.sample3 bottom (j + 1)) hu rfl
      obtain ⟨heighth, hother⟩ := calLower_pwm j (s := sampleSmoothed s) hv hr
      refine ⟨_, step_calSearch ha hq (calSearch_sample3_above hgt), hacc, hseeded, fun h => ?_,
        fun _ => ⟨hnone, hsome, henv, heighth, hother⟩, hframe⟩
      rw [hacc] at h
      exact absurd hgt (Nat.not_lt.mpr h)
    · exact ⟨_, step_calSearch ha hq (calSearch_sample3_reached hle), rfl, rfl, fun _ => ⟨rfl, rfl, rfl, rfl⟩,
        fun h => absurd h (Nat.not_lt.mpr hle), rfl⟩
  · have ht : calSearch w c k s = calDisplay w c k' (regCore c.thrCal.toNat s) := by
      rcases hk with ⟨rfl, rfl⟩ | ⟨rfl, rfl⟩
      · rw [← calPass1_pred]; rfl
      · rw [← calPass4_pred]; rfl
    obtain ⟨hacc, hseeded, hnone, hsome, henv, hframe⟩ := calDisplay_after_sample w c k' (regCore_frame _ s) rfl
    have hon : (calDisplay w c k' (regCore c.thrCal.toNat s)).pwmOn = s.pwmOn := regCore_pwmOn ..
    refine ⟨_, step_calSearch ha hq ht, hacc, hseeded, ?_, hnone, hsome, henv, by rw [hon] at hframe; exact hframe⟩
    rw [hacc]
    exact regCore_pwmTop_toNat _ hv hr

/-- Settles O26: CAL's first STEP saves, and the three STEPs between the passes are SetPulseWidth. -/
theorem calStartsEachPass : Obligations.CalStartsEachPass := by
  unfold Obligations.CalStartsEachPass
  refine ⟨fun s => ⟨calCtxOf s, rfl, rfl, rfl, thresholdFor_toNat .., fun h => ?_, fun h => ?_⟩,
    fun s w c bottom k hv hr ha hq hk => ⟨_, step_calSearch ha hq rfl, ?_⟩⟩
  · simp only [exec, execCal, calPass1, if_pos h]; rfl
  · simp only [exec, execCal, calPass1, if_neg (Nat.ne_of_gt h)]; rfl
  · have ⟨hpulse, _⟩ := hv
    obtain ⟨hlo, hhi, -⟩ := hr
    simp only [List.mem_cons, List.not_mem_nil, or_false] at hk
    rcases hk with rfl | rfl | rfl
    · refine ⟨fun _ => ⟨?_, rfl⟩, nofun, nofun, setPulseWidth_pwmTop_toNat _ hv, rfl⟩
      have hon := setPulseWidth_pwmOn_toNat s.cfg.pulseMin hv
      exact hon.trans (by omega)
    · refine ⟨nofun, fun _ => ⟨?_, rfl⟩, nofun, setPulseWidth_pwmTop_toNat _ hv, rfl⟩
      have hon := setPulseWidth_pwmOn_toNat (s.pwmOn.toNat + 50) hv
      exact hon.trans (by omega)
    · refine ⟨nofun, nofun, fun _ => ⟨setPulseWidth_pwmOn_toNat _ hv, fun h => ?_, fun h => ?_⟩,
        setPulseWidth_pwmTop_toNat _ hv, rfl⟩
      · simp only [calSearch, calPass4, if_pos h]; rfl
      · simp only [calSearch, calPass4, if_neg (Nat.ne_of_gt h)]; rfl

end Sys2Proof.Machine
end

section
/-! SUPPORT. Proofs of the family of 40_hv_regulator.md: the PWM timer as an observation (R68, R123). -/

namespace Sys2Proof.Machine

open Sys2Proof.Safety

theorem countP_range_lt (n k : Nat) : (List.range n).countP (fun i => decide (i < k)) = min n k := by
  induction n with
  | zero => simp
  | succ n ih =>
    rw [List.range_succ, List.countP_append, ih]
    by_cases h : n < k
    · simp [h]; omega
    · simp [h]; omega

theorem pwmPort_of_gate {s : State} (h : s.gate = true) (n : Nat) : pwmPort s n = decide (n < s.pwmOn.toNat) := by
  rw [pwmPort, h, Bool.true_and]

/-- The clocks of a period in which the switch conducts, with the gate open. -/
theorem pwmPort_countP {s : State} (hr : PwmInRange s) (h : s.gate = true) :
    (List.range (pwmPeriod s)).countP (fun n => pwmPort s n) = s.pwmOn.toNat := by
  obtain ⟨-, -, -, -, hm⟩ := hr
  rw [funext (pwmPort_of_gate h), countP_range_lt, pwmPeriod]
  omega

section Timer

variable (o : Observed)

theorem Observed.output_of_core_closed (h : o.core.gate = false) : o.output = false := by
  rw [Observed.output, PwmTimer.output, h]; rfl

theorem Observed.output_of_timer_closed (h : o.timer.gate = false) : o.output = false := by
  rw [Observed.output, PwmTimer.output, h, Bool.and_false, Bool.false_and]

theorem Observed.core_open_of_output (h : o.output = true) : o.core.gate = true := by
  by_contra hg
  rw [o.output_of_core_closed (Bool.not_eq_true _ ▸ hg)] at h
  cases h

theorem observe_clock_within (h : o.timer.count < o.timer.top.toNat) :
    observe .clock o = ⟨o.core, { o.timer with count := o.timer.count + 1, gate := o.timer.gate && o.core.gate }⟩ :=
  congrArg (Observed.mk o.core) (if_neg (Nat.not_le.mpr h))

theorem observe_clock_end (h : o.timer.top.toNat ≤ o.timer.count) :
    observe .clock o = ⟨o.core, ⟨0, o.core.gate, o.core.pwmOn, o.core.pwmTop⟩⟩ :=
  congrArg (Observed.mk o.core) (if_pos h)

theorem observe_step {t : State} (h : step o.core = .next t) :
    observe .step o = ⟨t, { o.timer with gate := o.timer.gate && o.core.gate && t.gate }⟩ := by
  simp only [observe, PwmTimer.see, h]

/-- A step leaves the timer's gate open only where it was open and the core's gate is open before and after. -/
theorem observe_step_gate :
    (observe .step o).timer.gate = (o.timer.gate && o.core.gate && (observe .step o).core.gate) := by
  cases h : step o.core with
  | next t => rw [observe_step o h]
  | fault r => cases r
  | refused r => simp only [observe, PwmTimer.see, h, Bool.and_assoc, Bool.and_self]

/-- After any moment the timer's gate is open only beside an open core. -/
theorem observe_core_open (m : Moment) (h : (observe m o).timer.gate = true) : (observe m o).core.gate = true := by
  cases m with
  | step => rw [observe_step_gate] at h; exact (Bool.and_eq_true_iff.mp h).2
  | clock =>
    rcases Nat.lt_or_ge o.timer.count o.timer.top.toNat with hc | hc
    · rw [observe_clock_within o hc] at h ⊢; exact (Bool.and_eq_true_iff.mp h).2
    · rw [observe_clock_end o hc] at h ⊢; exact h

/-- A timer whose gate, or whose core's gate, is closed stays closed until the period ends. -/
theorem observe_timer_closed {m : Moment} (hg : (o.timer.gate && o.core.gate) = false)
    (hm : m = .step ∨ o.timer.count < o.timer.top.toNat) : (observe m o).timer.gate = false := by
  cases m with
  | step => rw [observe_step_gate, hg, Bool.false_and]
  | clock => rw [observe_clock_within o (hm.resolve_left nofun)]; exact hg

end Timer

/-- Settles O31: the steady waveform counts the clocks below the pulse width; the timer's rules are those of `observe`,
moment by moment. -/
theorem pwmConductsForThePulseWidth : Obligations.PwmConductsForThePulseWidth := by
  unfold Obligations.PwmConductsForThePulseWidth
  refine ⟨fun s hr => ⟨rfl, fun hg n _ => pwmPort_of_gate hg n, pwmPort_countP hr, fun hg n => ?_⟩, fun s n => ?_,
    fun o => ⟨rfl, o.output_of_core_closed, observe_clock_within o, observe_clock_end o, fun t => observe_step o⟩,
    fun o m => ⟨observe_core_open o m, (observe m o).core_open_of_output, fun hg hm => ?_⟩⟩
  · rw [pwmPort, hg, Bool.false_and]
  · rw [Observed.output, PwmTimer.output, pwmPort, Bool.and_self]
  · exact (observe m o).output_of_timer_closed (observe_timer_closed o (Bool.and_eq_false_iff.mpr hg) hm)

end Sys2Proof.Machine
end

section
/-! SUPPORT. Proofs of the family of 41_multiplexer.md, the one-STEP commands: BCD, WRLIVE, WRMASK, WRDWELL and SHOWTIME,
and BlankMask. -/

namespace Sys2Proof.Machine

open Sys2Proof.Safety

/-! ## Words and ill-formed commands (R58, R110) -/

theorem encode_toNat_of_operands {i : Instr} {op a b : Nat} (hop : (opcode i).toNat * 2 ^ 24 = op)
    (ha : (operandA i).toNat = a) (hb : (operandB i).toNat = b) : (encode i).toNat = op + a * 2 ^ 16 + b := by
  rw [encode, packWord_toNat, ha, hb, ← hop, Nat.add_mul, Nat.mul_assoc, ← Nat.pow_add]

/-- A command with an operand out of range is IllegalCommand. -/
theorem exec_illegal {i : Instr} (h : ¬ i.wellFormed = true) (s : State) :
    exec i s = .next { s with err := true, seq := .idle } := by
  obtain ⟨t, ht⟩ := exec_next i s
  rcases exec_cases ht with ⟨-, rfl⟩ | ⟨hw, -⟩
  · exact ht
  · exact absurd hw h

/-! ## BlankMask (R86) -/

theorem hourMask_getLsbD (bit5 bit4 : Bool) :
    (hourMask bit5 bit4).getLsbD 5 = bit5 ∧ (hourMask bit5 bit4).getLsbD 4 = bit4 ∧
      ∀ i < 4, (hourMask bit5 bit4).getLsbD i = true := by
  revert bit5 bit4; decide

/-- Settles O36: the two hour bits are those BlankMask passes to `hourMask`. -/
theorem blankMaskCascades : Obligations.BlankMaskCascades := by
  unfold Obligations.BlankMaskCascades
  refine ⟨fun h => ?_, by decide⟩
  obtain ⟨h5, h4, hlow⟩ := hourMask_getLsbD (h / 10 != 0) (h / 10 != 0 || h % 10 != 0)
  have hbne (n : Nat) : (n != 0) = decide (n ≠ 0) := by rw [decide_not]; rfl
  rw [← hbne, ← hbne]
  exact ⟨h5, h4, hlow⟩

/-! ## BCD and WRMASK (R87, R89) -/

/-- BcdCode is the identity on codes: BLANK is the code 0b1111 itself (R81). -/
theorem bcdCode_eq (d : Digit) : bcdCode d = d := by
  rw [bcdCode]; split
  · exact Eq.symm ‹_›
  · rfl

/-- Settles O32: BCD reports the code of its digit, which is the digit's own. -/
theorem bcdReportsAndWrmaskWrites : Obligations.BcdReportsAndWrmaskWrites := by
  unfold Obligations.BcdReportsAndWrmaskWrites
  have ⟨hwf, _⟩ := wellFormedIsTheRangeTable
  refine ⟨fun d m => ⟨?_, ?_⟩, fun s d => ⟨fun hd => ?_, fun h1 h2 => ?_⟩, fun s m => rfl⟩
  · exact encode_toNat_of_operandB (by simp [opcode]) rfl (BitVec.toNat_setWidth_of_le (by decide))
  · exact encode_toNat_of_operandB (by simp [opcode]) rfl (BitVec.toNat_setWidth_of_le (by decide))
  · have hexec : exec (.bcd d) s = .next { s with res := (bcdCode d).setWidth 16, seq := .idle } :=
      if_pos ((isDigitValue_iff d).mpr hd)
    refine ⟨_, hexec, ?_, rfl⟩
    rw [bcdCode_eq]
    exact BitVec.toNat_setWidth_of_le (by decide)
  · exact exec_illegal (mt (hwf d).mp (by omega)) s

/-! ## WRLIVE and WRDWELL (R88, R90) -/

/-- A write to one position of a frame or a dwell table. -/
theorem vector_set_position {α : Type} (v : Vector α 6) (p : Position) (x : α) :
    (v.set p x)[p] = x ∧ ∀ q : Position, q ≠ p → (v.set p x)[q] = v[q] :=
  ⟨Vector.getElem_set_self .., fun _ hq => Vector.getElem_set_ne _ _ fun h => hq (Fin.ext h.symm)⟩

theorem exec_wrlive_position (s : State) (p : Position) {d : BitVec 4} (hd : isDigitValue d = true) :
    exec (.wrlive (BitVec.ofNat 8 p.val) d) s = .next { s with live := s.live.set p d, seq := .idle } := by
  simp only [exec, execWrlive, position?_ofNat, if_pos hd]

theorem exec_wrdwell_position (s : State) (p : Position) (v : BitVec 16) :
    exec (.wrdwell (BitVec.ofNat 8 p.val) v) s = .next { s with
      dwell := s.dwell.set p (reg16 (clamp v.toNat Config.dwellMin Config.dwellMax)), seq := .idle } := by
  simp only [exec, execWrdwell, position?_ofNat]

/-- WRLIVE reserves bits 15 to 4: with one of them set its opcode spells no command (R63). -/
theorem decode_wrlive_malformed {w : Word} (hop : w.extractLsb' 24 8 = 0x11#8) (hres : w.extractLsb' 4 12 ≠ 0#12) :
    decode w = none := by
  have hop' : opField w = opcode (.wrlive 0#8 0#4) := hop
  rw [decode, hop', Option.eq_none_iff_forall_ne_some]
  intro j hj
  obtain ⟨⟨-, hzero⟩, -⟩ := (decodeFields_opcode ..).mp hj
  have hlt : (bField w).toNat < 2 ^ 4 := (shiftRight_eq_zero_iff _ _).mp hzero
  refine hres (BitVec.eq_of_toNat_eq ?_)
  rw [bField_toNat] at hlt
  rw [BitVec.extractLsb'_toNat, Nat.shiftRight_eq_div_pow, BitVec.toNat_ofNat]
  omega

/-- Settles O33: the digit goes to its position, and a word or an operand out of range is IllegalCommand. -/
theorem wrliveWritesOneDigit : Obligations.WrliveWritesOneDigit := by
  unfold Obligations.WrliveWritesOneDigit
  have ⟨_, hwf, _⟩ := wellFormedIsTheRangeTable
  refine ⟨fun a d => ?_, fun s d => ⟨fun p hd => ?_, fun a ha => ?_, fun w hop hres => ?_⟩⟩
  · exact encode_toNat_of_operands (by simp [opcode]) rfl (BitVec.toNat_setWidth_of_le (by decide))
  · obtain ⟨hself, hother⟩ := vector_set_position s.live p d
    exact ⟨_, exec_wrlive_position s p ((isDigitValue_iff d).mpr hd), hself, hother, rfl⟩
  · exact exec_illegal (mt (hwf a d).mp (by omega)) s
  · have hd := decode_wrlive_malformed hop hres
    exact ⟨hd, by rw [busyStep, hd]; rfl⟩

/-- Settles O34: the clamped count fits its register. -/
theorem wrdwellClampsTheCount : Obligations.WrdwellClampsTheCount := by
  unfold Obligations.WrdwellClampsTheCount
  have ⟨_, _, hwf, _⟩ := wellFormedIsTheRangeTable
  refine ⟨fun a v => encode_toNat_of_operands (by simp [opcode]) rfl rfl, fun s v => ⟨fun p => ?_, fun a ha => ?_⟩⟩
  · obtain ⟨hself, hother⟩ := vector_set_position s.dwell p (reg16 (clamp v.toNat Config.dwellMin Config.dwellMax))
    refine ⟨_, exec_wrdwell_position s p v, ?_, hother, rfl⟩
    dsimp only
    rw [hself, clamp_natCast, reg16_toNat] <;> simp only [Config.dwellMin, Config.dwellMax]
    omega
  · exact exec_illegal (mt (hwf a v).mp (by omega)) s

/-! ## SHOWTIME (R91) -/

theorem exec_showtime_inRange {h m n : BitVec 8} (hw : (Instr.showtime h m n).wellFormed = true) (s : State) :
    exec (.showtime h m n) s = .next { s with
      live := frameOf n.toNat m.toNat h.toNat, sec := n
      mask := if s.ui = .idle then blankMask h.toNat else s.mask, seq := .idle } :=
  if_pos hw

/-- Settles O35: each two-digit value is at most 99, so its tens are a digit code. -/
theorem showtimeShowsTheTime : Obligations.ShowtimeShowsTheTime := by
  unfold Obligations.ShowtimeShowsTheTime
  have ⟨_, _, _, hwf, _⟩ := wellFormedIsTheRangeTable
  refine fun s h m n => ⟨?_, fun hh hm hn => ?_, fun hbad => exec_illegal (mt (hwf h m n).mp (by omega)) s⟩
  · rw [Nat.add_assoc]
    exact encode_toNat_of_operands (by simp [opcode]) rfl (toNat_append_eq m n)
  · exact ⟨_, exec_showtime_inRange ((hwf h m n).mpr ⟨hh, hm, hn⟩) s, units_toNat _, tens_toNat (by omega),
      units_toNat _, tens_toNat (by omega), units_toNat _, tens_toNat (by omega), rfl,
      decide_eq_false (Nat.not_le.mpr (Nat.lt_succ_of_le hn)), fun hu => if_pos hu, fun hu => if_neg hu, rfl⟩

end Sys2Proof.Machine
end

section
/-! SUPPORT. Proofs of the family of 41_multiplexer.md, the render pass: one STEP of the pass in progress, whatever
command makes it, and the run of STEPs from a position's SEL_BCD to its GAP and to the end of the pass. -/

namespace Sys2Proof.Machine

open Sys2Proof.Safety

/-! ## The pass in progress (R83, R92, R94, R97, R80) -/

/-- The places of `seq` inside a pass. -/
theorem passOf_cases {q : Seq} {k : PassPos} (h : passOf q = some k) :
    (∃ w src, q = .busy w (.render src k)) ∨
    (∃ w c p r d n, q = .busy w (.depoison c (.pass p r d n k))) ∨
    (∃ w phase cycle n, q = blinkSeq w (.pass phase cycle n k)) ∨
    (∃ w c n a, q = .busy w (.cal c (.pass n k a))) := by
  cases q with
  | idle => cases h
  | halted f => cases f <;> cases h; exact .inr (.inr (.inl ⟨none, _, _, _, rfl⟩))
  | busy w pos =>
    cases pos with
    | start | faultEnd => cases h
    | render src k => cases h; exact .inl ⟨_, _, rfl⟩
    | depoison c d => cases d <;> cases h; exact .inr (.inl ⟨_, _, _, _, _, _, rfl⟩)
    | fault f => cases f <;> cases h; exact .inr (.inr (.inl ⟨some w, _, _, _, rfl⟩))
    | cal c p => cases p <;> cases h; exact .inr (.inr (.inr ⟨_, _, _, _, rfl⟩))

section InPass

variable {q : Seq} {k : PassPos} (h : passOf q = some k)
include h

theorem withPass_inPass (k' k'' : PassPos) :
    passOf (withPass q k') = some k' ∧ passSrc (withPass q k') = passSrc q ∧
      withPass (withPass q k') k'' = withPass q k'' := by
  rcases passOf_cases h with ⟨w, src, rfl⟩ | ⟨w, c, p, r, d, n, rfl⟩ | ⟨_ | w, phase, cycle, n, rfl⟩ |
    ⟨w, c, n, a, rfl⟩ <;> exact ⟨rfl, rfl, rfl⟩

theorem withPass_self : withPass q k = q := by
  rcases passOf_cases h with ⟨w, src, rfl⟩ | ⟨w, c, p, r, d, n, rfl⟩ | ⟨_ | w, phase, cycle, n, rfl⟩ |
    ⟨w, c, n, a, rfl⟩ <;> rfl

end InPass

/-- Away from Idle nothing the core does brings the host's waiting move forward. -/
theorem alone_of_passOf {s t : State} {k : PassPos} (ha : Alone s) (hk : passOf t.seq = some k)
    (he : t.env = s.env) (ht : t.tickPending = s.tickPending) : Alone t := by
  have hbusy : hostMayMove t = false := by
    rw [← Bool.not_eq_true, hostMayMove_iff]
    rintro ⟨hi, -⟩
    rw [hi] at hk
    cases hk
  obtain ⟨h0 | ⟨-, hm⟩, hp⟩ := ha
  · exact ⟨.inl (he ▸ h0), ht.trans hp⟩
  · exact ⟨.inr ⟨hbusy, he ▸ hm⟩, ht.trans hp⟩

/-! ## One STEP of a pass (R83) -/

/-- The loop control of a pass reads `dwell` and the mask, which no STEP of a pass writes. -/
@[simp] theorem passNext_passStep (src : FrameSrc) (k k' : PassPos) (s : State) :
    passNext k' (passStep src k s) = passNext k' s := by
  simp only [passNext, passStep_dwell, passStep_mask]

theorem passesNext_of_passNext {n : Nat} {k k' : PassPos} {s : State} (h : passNext k s = some k') :
    passesNext n k s = some (n, k') := by
  rw [passesNext, h]

section PassStep

variable {s : State} {k : PassPos} (ha : Alone s) (hk : passOf s.seq = some k)
include ha hk

/-- A STEP of the pass in progress acts on the outputs, and moves the sequencer; inside the pass it goes to the STEP that
follows. -/
theorem step_inPass :
    ∃ q, step s = .next ((passStep (passSrc s.seq) k s).withSeq q) ∧
      ∀ k', passNext k s = some k' → q = withPass s.seq k' := by
  rw [step_alone ha, seqStep]
  rcases passOf_cases hk with ⟨w, src, hq⟩ | ⟨w, c, p, r, d, n, hq⟩ | ⟨w, phase, cycle, n, hq⟩ | ⟨w, c, n, a, hq⟩
  · refine ⟨_, by rw [hq]; exact congrArg _ (renderStep_eq w src k s), fun k' hn => ?_⟩
    rw [renderStep, passNext_passStep, hn, hq]; rfl
  · refine ⟨_, by rw [hq]; exact congrArg _ (depoisonStep_pass_eq w c p r d n k s), fun k' hn => ?_⟩
    have hn' := passesNext_of_passNext (n := n) ((passNext_passStep .live k k s).trans hn)
    rw [depoisonStep, hn', hq]; rfl
  · refine ⟨(faultStep w (.pass phase cycle n k) s).seq, ?_, fun k' hn => ?_⟩
    · cases w <;> (rw [hq]; exact congrArg _ (faultStep_pass_eq _ phase cycle n k s))
    · have hn' := passesNext_of_passNext (n := n) ((passNext_passStep .live k k s).trans hn)
      rw [faultStep, hn', hq]; cases w <;> rfl
  · refine ⟨_, by rw [hq]; exact congrArg _ (calStep_pass_eq w c n k a s), fun k' hn => ?_⟩
    rw [calStep, passNext_passStep, hn, hq]; rfl

theorem step_passNext {k' : PassPos} (hn : passNext k s = some k') :
    step s = .next ((passStep (passSrc s.seq) k s).withSeq (withPass s.seq k')) := by
  obtain ⟨q, hs, hq⟩ := step_inPass ha hk
  rw [hs, hq k' hn]

end PassStep

/-- The last GAP of RENDER's pass ends the command (R92). -/
theorem step_render_last {s : State} {w : Word} {src : FrameSrc} {p : Position} (ha : Alone s)
    (hq : s.seq = .busy w (.render src ⟨p, .gap⟩)) (hp : ∀ q : Position, p < q → s.mask.getLsbD q.val = false) :
    step s = .next { s with anode := 0#6, gate := false, seq := .idle } := by
  have hn := (passNext_passStep src ⟨p, .gap⟩ ⟨p, .gap⟩ s).trans (passNext_gap_last hp)
  rw [step_alone ha, seqStep, hq]
  simp only [busyStep, renderStep, hn]
  rfl

/-- DWELL ends at a count of 1. -/
theorem holdPhase_pred (n : BitVec 16) :
    holdPhase (n - 1#16) = if n = 1#16 then .gap else .dwell (n - 1#16) := by
  have h : n - 1#16 = 0#16 ↔ n = 1#16 := by constructor <;> intro h <;> bv_omega
  simp only [holdPhase, h]

/-- Settles O39: each kind of STEP is `step_inPass` at its phase. -/
theorem passStepsDriveOnePosition : Obligations.PassStepsDriveOnePosition := by
  unfold Obligations.PassStepsDriveOnePosition
  intro s p ha
  refine ⟨fun hk => ?_, fun n hk => step_passNext ha hk rfl, fun n hk => ?_, fun hk => ?_⟩
  · rw [step_passNext ha hk rfl]
    cases passSrc s.seq <;> rfl
  · rw [← holdPhase_pred]
    exact step_passNext ha hk rfl
  · obtain ⟨q, hs, hq⟩ := step_inPass ha hk
    refine ⟨_, hs, rfl, rfl, rfl, fun r hr hlit hdark => hq _ (passNext_gap hr hlit hdark), fun w src hr hdark => ?_⟩
    have hlast := step_render_last ha hr hdark
    rw [hs] at hlast
    injection hlast with hlast
    exact congrArg State.seq hlast

/-! ## The start of RENDER in Idle (R92) -/

theorem encode_render : encode .render = 0x15000000#32 := by decide

theorem exec_render_lit {s : State} {k : PassPos} (hu : s.ui = .idle) (hk : passStart s.mask = some k) :
    exec .render s = .next (renderStep 0x15000000#32 .live k s) := by
  simp only [exec, execRender, if_pos hu, hk, encode_render]

/-- Settles O37: with no position lit no STEP is taken, and else the pass starts at the lowest lit one. -/
theorem renderInIdleShowsLive : Obligations.RenderInIdleShowsLive := by
  unfold Obligations.RenderInIdleShowsLive
  refine fun s hu => ⟨fun hm => ?_, fun p hlit hdark => ?_⟩
  · have hnone : passStart s.mask = none := by rw [hm]; decide
    simp only [exec, execRender, if_pos hu, hnone]
    rfl
  · rw [exec_render_lit hu (passStart_of_lowest hlit hdark)]
    rfl

/-! ## Runs (Host/Core.lean) -/

/-- `n` steps of the machine lead from `s` to `t`. -/
def Reaches (n : Nat) (s t : State) : Prop := Host.Core.run core n s = .next t

theorem reaches_zero {s t : State} : Reaches 0 s t ↔ s = t := by
  simp only [Reaches, Host.Core.run]
  exact ⟨Host.Outcome.next.inj, congrArg _⟩

theorem reaches_succ {n : Nat} {s t : State} : Reaches (n + 1) s t ↔ ∃ u, step s = .next u ∧ Reaches n u t := by
  cases hs : step s with
  | next u =>
    have hs' : core.step s = .next u := hs
    simp only [Reaches, Host.Core.run, hs', Host.Outcome.next.injEq, exists_eq_left']
  | fault r => cases r
  | refused r =>
    have hs' : core.step s = .refused r := hs
    simp only [Reaches, Host.Core.run, hs', reduceCtorEq, false_and, exists_false]

theorem Reaches.step {n : Nat} {s u t : State} (hs : Machine.step s = .next u) (h : Reaches n u t) :
    Reaches (n + 1) s t :=
  reaches_succ.mpr ⟨u, hs, h⟩

theorem Reaches.trans {m n : Nat} {s u t : State} (h : Reaches m s u) (h' : Reaches n u t) : Reaches (m + n) s t := by
  induction m generalizing s with
  | zero =>
    obtain rfl := reaches_zero.mp h
    rw [Nat.zero_add]
    exact h'
  | succ m ih =>
    obtain ⟨v, hs, h⟩ := reaches_succ.mp h
    rw [Nat.add_right_comm]
    exact (ih h).step hs

/-- A run that leaves its first state depends on it through the first step alone. -/
theorem Reaches.of_step_eq {n : Nat} {s u t : State} (h : Reaches n u t) (hs : Machine.step s = Machine.step u)
    (hne : u ≠ t) : Reaches n s t := by
  cases n with
  | zero => exact absurd (reaches_zero.mp h) hne
  | succ n =>
    rw [reaches_succ, ← hs] at h
    exact reaches_succ.mpr h

/-! ## From SEL_BCD to GAP (R83) -/

theorem State.frame_congr {s t : State} (hl : t.live = s.live) (ho : t.ovl = s.ovl) (src : FrameSrc) :
    t.frame src = s.frame src := by
  cases src
  · exact hl
  · exact ho

/-- The state at the GAP of position `p` of the pass in progress in `s`. -/
def State.atGap (s : State) (p : Position) : State :=
  { s with
    bcd := bcdCode (s.frame (passSrc s.seq))[p], anode := bitAt p, gate := true
    seq := withPass s.seq ⟨p, .gap⟩ }

/-- The DWELL STEPs left count down to the GAP, and leave the rest as it is. -/
theorem reaches_dwell {s : State} {p : Position} {n : BitVec 16} (ha : Alone s)
    (hk : passOf s.seq = some ⟨p, holdPhase n⟩) :
    Reaches n.toNat s (s.withSeq (withPass s.seq ⟨p, .gap⟩)) := by
  induction hm : n.toNat generalizing s n with
  | zero =>
    obtain rfl : n = 0#16 := BitVec.eq_of_toNat_eq hm
    exact reaches_zero.mpr (congrArg s.withSeq (withPass_self hk)).symm
  | succ m ih =>
    have hne : n ≠ 0#16 := by rintro rfl; cases hm
    have hphase : holdPhase n = .dwell n := if_neg hne
    rw [hphase] at hk
    have hpred : (n - 1#16).toNat = m := by bv_omega
    obtain ⟨hk', -, hw⟩ := withPass_inPass hk ⟨p, holdPhase (n - 1#16)⟩ ⟨p, .gap⟩
    have hrest := ih (s := s.withSeq (withPass s.seq ⟨p, holdPhase (n - 1#16)⟩)) (alone_of_passOf ha hk' rfl rfl) hk'
      hpred
    rw [State.withSeq_seq, hw] at hrest
    exact hrest.step (step_passNext ha hk rfl)

/-- A lit position takes its SEL_BCD, its SEL_ON and its dwell before its GAP. -/
theorem reaches_atGap {s : State} {p : Position} (ha : Alone s) (hk : passOf s.seq = some ⟨p, .selBcd⟩) :
    Reaches (s.dwell[p].toNat + 2) s (s.atGap p) := by
  let u := { s with bcd := bcdCode (s.frame (passSrc s.seq))[p], seq := withPass s.seq ⟨p, .selOn s.dwell[p]⟩ }
  let v := { u with anode := bitAt p, gate := true, seq := withPass u.seq ⟨p, holdPhase s.dwell[p]⟩ }
  obtain ⟨hu, -, hwu⟩ := withPass_inPass hk ⟨p, .selOn s.dwell[p]⟩ ⟨p, .gap⟩
  obtain ⟨hv, -, hwv⟩ := withPass_inPass hu ⟨p, holdPhase s.dwell[p]⟩ ⟨p, .gap⟩
  have hau : Alone u := alone_of_passOf ha hu rfl rfl
  have hdwell := reaches_dwell (s := v) (alone_of_passOf hau hv rfl rfl) hv
  have hgap : v.withSeq (withPass v.seq ⟨p, .gap⟩) = s.atGap p := congrArg v.withSeq (hwv.trans hwu)
  rw [hgap] at hdwell
  exact (hdwell.step (step_passNext hau hu rfl)).step (step_passNext ha hk rfl)

/-! ## From the first SEL_BCD to the end of the pass (R83) -/

/-- The STEPs a pass takes for the positions from `i` up. -/
def passLengthFrom (s : State) (i : Nat) : Nat :=
  (((List.finRange 6).drop i).map fun p => if s.mask.getLsbD p.val then s.dwell[p].toNat + 3 else 0).sum

theorem passLengthFrom_zero (s : State) : passLengthFrom s 0 = passLength s := rfl

theorem passLengthFrom_position (s : State) (p : Position) :
    passLengthFrom s p.val =
      (if s.mask.getLsbD p.val then s.dwell[p].toNat + 3 else 0) + passLengthFrom s (p.val + 1) := by
  have hdrop : (List.finRange 6).drop p.val = p :: (List.finRange 6).drop (p.val + 1) := by
    rw [List.drop_eq_getElem_cons (by simp), List.getElem_finRange]; rfl
  rw [passLengthFrom, hdrop, List.map_cons, List.sum_cons, passLengthFrom]

/-- Above the highest lit position a pass takes no STEP. -/
theorem passLengthFrom_eq_zero {s : State} {p : Position} (h : ∀ q : Position, p < q → s.mask.getLsbD q.val = false) :
    passLengthFrom s (p.val + 1) = 0 := by
  refine List.sum_eq_zero fun n hn => ?_
  obtain ⟨q, hq, rfl⟩ := List.mem_map.mp hn
  have hlt : p < q := by
    obtain ⟨j, hj, rfl⟩ := List.mem_drop_iff_getElem.mp hq
    rw [List.getElem_finRange, Fin.lt_def]
    exact Nat.lt_add_right j p.val.lt_succ_self
  rw [h q hlt]
  rfl

theorem nextLit_lit {m : Mask} {p : Position} (h : m.getLsbD p.val = true) : nextLit m p.val = some p :=
  nextLit_eq_some.mpr ⟨le_rfl, h, fun _ hle hlt => absurd hle (Nat.not_le.mpr hlt)⟩

theorem nextLit_dark {m : Mask} {p : Position} (h : m.getLsbD p.val = false) :
    nextLit m p.val = nextLit m (p.val + 1) := by
  refine Option.ext fun q => ?_
  rw [nextLit_eq_some, nextLit_eq_some]
  constructor
  · rintro ⟨hle, hlit, hdark⟩
    have hne : p.val ≠ q.val := fun he => by rw [← he, h] at hlit; cases hlit
    exact ⟨by omega, hlit, fun r hr => hdark r (by omega)⟩
  · rintro ⟨hlt, hlit, hdark⟩
    refine ⟨by omega, hlit, fun r hr hrq => ?_⟩
    rcases Nat.eq_or_lt_of_le hr with he | hr
    · rw [← he]; exact h
    · exact hdark r hr hrq

/-- With a position lit from `i` up there is a lowest one. -/
theorem exists_nextLit {m : Mask} {i : Nat} {p : Position} (hle : i ≤ p.val) (hlit : m.getLsbD p.val = true) :
    ∃ q, nextLit m i = some q := by
  cases hn : nextLit m i with
  | some q => exact ⟨q, rfl⟩
  | none =>
    rw [nextLit_eq_none.mp hn p hle] at hlit
    cases hlit

section Pass

variable {s : State} {k : PassPos} (hk : passOf s.seq = some k)
include hk

/-- The GAP of a position is the same wherever in the pass it is looked for, and whatever the outputs are. -/
theorem atGap_eq (p : Position) (b : BitVec 4) (a : Mask) (g : Bool) (k' : PassPos) :
    State.atGap { s with bcd := b, anode := a, gate := g, seq := withPass s.seq k' } p = s.atGap p := by
  obtain ⟨-, hsrc, hw⟩ := withPass_inPass hk k' ⟨p, .gap⟩
  have hframe := State.frame_congr (s := s) (t := { s with bcd := b, anode := a, gate := g, seq := withPass s.seq k' })
    rfl rfl (passSrc s.seq)
  simp only [State.atGap, hsrc, hw, hframe]

/-- The GAP of a position is followed by the SEL_BCD of the next lit one. -/
theorem step_atGap (ha : Alone s) {p q : Position} (hn : nextLit s.mask (p.val + 1) = some q) :
    step (s.atGap p) =
      .next { s.atGap p with anode := 0#6, gate := false, seq := withPass s.seq ⟨q, .selBcd⟩ } := by
  obtain ⟨hgap, -, hw⟩ := withPass_inPass hk ⟨p, .gap⟩ ⟨q, .selBcd⟩
  have hnext : passNext ⟨p, .gap⟩ (s.atGap p) = some ⟨q, .selBcd⟩ :=
    congrArg (Option.map fun r => PassPos.mk r .selBcd) hn
  rw [step_passNext (s := s.atGap p) (alone_of_passOf ha hgap rfl rfl) hgap hnext]
  exact congrArg (fun r => Host.Outcome.next { s.atGap p with anode := 0#6, gate := false, seq := r }) hw

end Pass

/-- From the SEL_BCD of the lowest lit position from `i` up, a pass takes its STEPs and ends as the GAP of the highest lit
position ends it. -/
theorem reaches_pass {i : Nat} {s t : State} {p q : Position} (ha : Alone s) (hk : passOf s.seq = some ⟨q, .selBcd⟩)
    (hq : nextLit s.mask i = some q) (hlit : s.mask.getLsbD p.val = true)
    (hp : ∀ r : Position, p < r → s.mask.getLsbD r.val = false) (ht : step (s.atGap p) = .next t) :
    Reaches (passLengthFrom s i) s t := by
  have hi : i < 6 := (nextLit_eq_some.mp hq).1.trans_lt q.isLt
  induction hj : 6 - i generalizing i s q with
  | zero => omega
  | succ j ih =>
    obtain ⟨r, rfl⟩ : ∃ r : Position, i = r.val := ⟨⟨i, hi⟩, rfl⟩
    rw [passLengthFrom_position]
    cases hr : s.mask.getLsbD r.val with
    | false =>
      rw [nextLit_dark hr] at hq
      rw [if_neg Bool.false_ne_true, Nat.zero_add]
      exact ih ha hk hq hlit hp ht ((nextLit_eq_some.mp hq).1.trans_lt q.isLt) (by omega)
    | true =>
      obtain rfl : r = q := Option.some.inj ((nextLit_lit hr).symm.trans hq)
      have hpos := reaches_atGap ha hk
      have hsplit : s.dwell[r].toNat + 3 + passLengthFrom s (r.val + 1) =
          s.dwell[r].toNat + 2 + (passLengthFrom s (r.val + 1) + 1) := by omega
      rw [if_pos rfl, hsplit]
      refine hpos.trans ?_
      rcases lt_trichotomy r p with hlt | rfl | hgt
      · obtain ⟨q, hn⟩ := exists_nextLit (Nat.succ_le_of_lt hlt) hlit
        obtain ⟨hu, -, -⟩ := withPass_inPass hk ⟨q, .selBcd⟩ ⟨q, .selBcd⟩
        have hq6 := (nextLit_eq_some.mp hn).1.trans_lt q.isLt
        refine (ih (s := { s.atGap r with anode := 0#6, gate := false, seq := withPass s.seq ⟨q, .selBcd⟩ })
          (alone_of_passOf ha hu rfl rfl) hu hn hlit hp ?_ hq6 (by omega)).step (step_atGap hk ha hn)
        rw [← ht]
        exact congrArg step (atGap_eq hk p _ _ _ _)
      · rw [passLengthFrom_eq_zero hp]
        exact (reaches_zero.mpr rfl).step ht
      · rw [hp r hgt] at hr
        cases hr

/-- RENDER's decode step in Idle is the first SEL_BCD of its pass. -/
theorem step_render_start {s : State} {q : Position} (ha : Alone s) (hq : s.seq = .busy 0x15000000#32 .start)
    (hu : s.ui = .idle) (hk : passStart s.mask = some ⟨q, .selBcd⟩) :
    step s = step (s.withSeq (.busy 0x15000000#32 (.render .live ⟨q, .selBcd⟩))) := by
  have hdecode : decode 0x15000000#32 = some .render := by rw [← encode_render, decode_encode]
  have hpass : step (s.withSeq (.busy 0x15000000#32 (.render .live ⟨q, .selBcd⟩))) =
      .next (renderStep 0x15000000#32 .live ⟨q, .selBcd⟩ s) :=
    step_alone (alone_of_passOf ha (k := ⟨q, .selBcd⟩) rfl rfl rfl)
  rw [hpass, step_alone ha, seqStep, hq]
  simp only [busyStep, hdecode, exec_render_lit hu hk]

/-- Settles O40: the decode step makes the first SEL_BCD, and the GAP of the highest lit position ends the command. -/
theorem renderEndsAfterItsDwell : Obligations.RenderEndsAfterItsDwell := by
  unfold Obligations.RenderEndsAfterItsDwell
  intro s p ha hq hu hlit hp
  obtain ⟨q, hn⟩ := exists_nextLit (Nat.zero_le _) hlit
  let u := s.withSeq (.busy 0x15000000#32 (.render .live ⟨q, .selBcd⟩))
  have hstart : step s = step u := step_render_start ha hq hu (congrArg (Option.map _) hn)
  have hau : Alone u := alone_of_passOf ha (k := ⟨q, .selBcd⟩) rfl rfl rfl
  have hlast : step (u.atGap p) = .next { s with bcd := bcdCode s.live[p], anode := 0#6, gate := false, seq := .idle } :=
    step_render_last (alone_of_passOf hau (k := ⟨p, .gap⟩) rfl rfl rfl) rfl hp
  have hrun := reaches_pass hau rfl hn hlit hp hlast
  rw [passLengthFrom_zero] at hrun
  exact hrun.of_step_eq hstart fun h => nomatch congrArg State.seq h

/-! ## At most one anode (R33, R84) -/

/-- The anode lines are off, or a lit position of the pass in progress drives its own (R84). -/
theorem OutputsOk.anode_cases {s : State} (h : OutputsOk s) :
    s.anode = 0#6 ∨ ∃ p : Position, s.anode = bitAt p ∧ s.mask.getLsbD p.val = true ∧ s.gate = true := by
  obtain ⟨hout, hmask⟩ := h
  cases hk : passOf s.seq with
  | none => exact .inl (by simpa [litPosition, hk] using hout)
  | some k =>
    cases hl : PassPhase.isLit k.phase with
    | false => exact .inl (by simpa [litPosition, hk, hl] using hout)
    | true =>
      obtain ⟨han, hg⟩ : s.anode = bitAt k.i ∧ s.gate = true := by simpa [litPosition, hk, hl] using hout
      exact .inr ⟨k.i, han, hmask k hk, hg⟩

/-- Settles O60: each clause is read off the outputs of `Inv`. -/
theorem atMostOneAnodeIsLit : Obligations.AtMostOneAnodeIsLit := by
  unfold Obligations.AtMostOneAnodeIsLit
  intro s hinv
  have hcases := OutputsOk.anode_cases hinv.outputs
  refine ⟨hcases, fun p q hp hq => ?_, fun hi => OutputsOk.anode_outside hinv.outputs (by rw [hi]; rfl)⟩
  rcases hcases with h0 | ⟨r, hr, -⟩
  · rw [h0, BitVec.getLsbD_zero] at hp
    cases hp
  · rw [hr, bitAt_getLsbD, decide_eq_true_eq] at hp hq
    exact hp.symm.trans hq

end Sys2Proof.Machine
end

section
/-! SUPPORT. Proofs of the family of 42_depoison.md: one STEP at each place of DEPOISON, the number of a burst in the
order of R94, and the run from burst to burst to the final STEP. -/

namespace Sys2Proof.Machine

open Sys2Proof.Safety

/-! ## The places of DEPOISON (R94) -/

theorem encode_depoison (rep : BitVec 16) : encode (.depoison rep) = 0x2000#16 ++ rep :=
  congrArg (· ++ rep) (by decide : 0x20#8 ++ 0#8 = 0x2000#16)

theorem exec_depoison (rep : BitVec 16) (s : State) :
    exec (.depoison rep) s =
      .next (s.withSeq (.busy (encode (.depoison rep)) (.depoison ⟨rep, s.live⟩ (firstBurst rep.toNat)))) := rfl

/-- Where DEPOISON goes with `n` passes of the burst `(p, r, d)` still to make. -/
def passesLeft (rep : Nat) (m : Mask) (p : Position) (r d n : Nat) : DepoisonPos :=
  match passesStart m n with
  | some (n', k) => .pass p r d n' k
  | none => afterBurst rep p r d

theorem passesLeft_zero (rep : Nat) (m : Mask) (p : Position) (r d : Nat) :
    passesLeft rep m p r d 0 = afterBurst rep p r d := rfl

theorem passesLeft_of_lit {m : Mask} {q : Position} {n : Nat} (hn : 1 ≤ n) (hm : passStart m = some ⟨q, .selBcd⟩)
    (rep : Nat) (p : Position) (r d : Nat) : passesLeft rep m p r d n = .pass p r d n ⟨q, .selBcd⟩ := by
  simp only [passesLeft, passesStart, if_neg (Nat.one_le_iff_ne_zero.mp hn), hm, Option.map_some]

/-- Inside a command nothing the core does brings the host's waiting move forward. -/
theorem alone_of_busy {s t : State} {w : Word} {k : Pos} (ha : Alone s) (hq : t.seq = .busy w k)
    (he : t.env.upcoming = s.env.upcoming) (ht : t.tickPending = s.tickPending) : Alone t := by
  have hbusy : hostMayMove t = false := by
    rw [← Bool.not_eq_true, hostMayMove_iff, hq]
    rintro ⟨hi, -⟩
    cases hi
  obtain ⟨hu, hp⟩ := ha
  exact ⟨hu.imp he.trans fun ⟨_, hm⟩ => ⟨hbusy, he ▸ hm⟩, ht.trans hp⟩

section Steps

variable {s : State} {w : Word} {c : DepoisonCtx} {p : Position} {r d : Nat} (ha : Alone s)
include ha

theorem step_depoison {k : DepoisonPos} (hq : s.seq = .busy w (.depoison c k)) :
    step s = .next (depoisonStep w c k s) := by
  rw [step_alone ha, seqStep, hq]
  rfl

/-- A BURST STEP is followed by the SEL_BCD of its position: it draws at least one pass. -/
theorem step_burst (hq : s.seq = .busy w (.depoison c (.burst p r d))) :
    step s = .next ((burstStep p d s).withSeq
      (.busy w (.depoison c (.pass p r d (passesDraw 1 s) ⟨p, .selBcd⟩)))) := by
  have hstart : (depoisonStep w c (.burst p r d) s).seq =
      .busy w (.depoison c (passesLeft c.rep.toNat (bitAt p) p r d (passesDraw 1 s))) := by
    simp only [depoisonStep, passesLeft, burstStep]
    cases passesStart (bitAt p) (passesDraw 1 s) <;> rfl
  rw [step_depoison ha hq, depoisonStep_burst_eq, hstart, passesLeft_of_lit (le_passesDraw 1 s) (passStart_bitAt p)]

/-- The GAP of the highest lit position ends a pass of a burst. -/
theorem step_lastGap {i : Position} {n : Nat} (hq : s.seq = .busy w (.depoison c (.pass p r d n ⟨i, .gap⟩)))
    (hdark : ∀ q : Position, i < q → s.mask.getLsbD q.val = false) :
    step s = .next { s with
      anode := 0#6, gate := false
      seq := .busy w (.depoison c (passesLeft c.rep.toNat s.mask p r d (n - 1))) } := by
  have hnext : passesNext n ⟨i, .gap⟩ (passStep .live ⟨i, .gap⟩ s) = passesStart s.mask (n - 1) := by
    rw [passesNext, passNext_passStep, passNext_gap_last hdark, passStep_mask]
  have hend : (depoisonStep w c (.pass p r d n ⟨i, .gap⟩) s).seq =
      .busy w (.depoison c (passesLeft c.rep.toNat s.mask p r d (n - 1))) := by
    simp only [depoisonStep, passesLeft, hnext]
    cases passesStart s.mask (n - 1) <;> rfl
  rw [step_depoison ha hq, depoisonStep_pass_eq, hend]
  rfl

end Steps

/-- Settles O42: the three places outside a pass, each by its own STEP. -/
theorem depoisonSavesBurstsAndRestores : Obligations.DepoisonSavesBurstsAndRestores := by
  unfold Obligations.DepoisonSavesBurstsAndRestores
  refine ⟨fun s rep => encode_depoison rep ▸ exec_depoison rep s, fun s w c p r d ha hd hq => ?_,
    fun s w c ha hq => step_depoison ha hq⟩
  refine ⟨_, step_burst ha hq, le_passesDraw 1 s, fun q => ?_, rfl, rfl, rfl, fun n rest => passesDraw_queued, rfl⟩
  exact (congrArg BitVec.toNat (Vector.getElem_replicate q.isLt)).trans (toDigit_toNat (by omega))

/-! ## The order of the bursts (R94, R95) -/

/-- The number of the burst `(p, r, d)`: digits fastest, then repeats, then positions from 5 down. -/
def burstNumber (rep : Nat) (p : Position) (r d : Nat) : Nat := ((5 - p.val) * rep + (r - 1)) * 10 + d

/-- The bursts of a DEPOISON: repeats 1 to `rep`, digits 0 to 9. -/
def BurstInRange (rep r d : Nat) : Prop := 1 ≤ r ∧ r ≤ rep ∧ d ≤ 9

/-- After a burst comes the one whose number is one greater, and after the last one the final STEP. -/
theorem afterBurst_cases {rep r d : Nat} (p : Position) (h : BurstInRange rep r d) :
    (afterBurst rep p r d = .restore ∧ burstNumber rep p r d + 1 = 6 * rep * 10) ∨
    ∃ p' r' d', afterBurst rep p r d = .burst p' r' d' ∧ BurstInRange rep r' d' ∧
      burstNumber rep p' r' d' = burstNumber rep p r d + 1 := by
  obtain ⟨h1, hr, hd⟩ := h
  simp only [afterBurst]
  by_cases hd9 : d < 9
  · exact .inr ⟨p, r, d + 1, if_pos hd9, ⟨h1, hr, hd9⟩, rfl⟩
  rw [if_neg hd9]
  by_cases hrep : r < rep
  · refine .inr ⟨p, r + 1, 0, if_pos hrep, ⟨by omega, hrep, by omega⟩, ?_⟩
    simp only [burstNumber]
    omega
  rw [if_neg hrep]
  by_cases hp : p = 0
  · refine .inl ⟨if_pos hp, ?_⟩
    subst hp
    simp only [burstNumber, Fin.val_zero]
    omega
  · refine .inr ⟨p - 1, 1, 0, if_neg hp, ⟨by omega, by omega, by omega⟩, ?_⟩
    have hpos : 5 - (p - 1).val = (5 - p.val) + 1 := by revert p; decide
    rw [burstNumber, burstNumber, hpos, Nat.succ_mul]
    omega

theorem burstNumber_lt {rep r d : Nat} (p : Position) (h : BurstInRange rep r d) :
    burstNumber rep p r d < 6 * rep * 10 := by
  obtain ⟨h1, hr, hd⟩ := h
  have hp : (5 - p.val) * rep ≤ 5 * rep := Nat.mul_le_mul_right rep (Nat.sub_le 5 p.val)
  rw [burstNumber]
  omega

/-- Settles O43: the last GAP is `step_lastGap`, and the order of the bursts `afterBurst_cases`. -/
theorem depoisonRunsSixtyBurstsPerRepeat : Obligations.DepoisonRunsSixtyBurstsPerRepeat := by
  unfold Obligations.DepoisonRunsSixtyBurstsPerRepeat
  intro s w c p i r d n ha hq h1 hr hd hdark
  refine ⟨_, _, step_lastGap ha hq hdark, rfl, fun q hn hlit hlow => ?_, ?_⟩
  · exact passesLeft_of_lit (by omega) (passStart_of_lowest hlit hlow) ..
  · rintro rfl
    obtain hlast | ⟨p', r', d', hk, ⟨h1', hr', hd'⟩, hnum⟩ := afterBurst_cases p ⟨h1, hr, hd⟩
    · exact .inl hlast
    · exact .inr ⟨p', r', d', hk, h1', hr', hd', hnum⟩

/-! ## From burst to burst -/

/-- The state after the GAP of position `p`, when a pass over `live` lit `p` alone: `bcd` keeps its code. -/
def State.afterPass (s : State) (p : Position) (q : Seq) : State :=
  { s with bcd := bcdCode s.live[p], anode := 0#6, gate := false, seq := q }

section Passes

variable {s : State} {w : Word} {c : DepoisonCtx} {p : Position} {r d n : Nat} (ha : Alone s) (hm : s.mask = bitAt p)
include ha hm

/-- One pass of a burst. -/
theorem reaches_burstPass (hq : s.seq = .busy w (.depoison c (.pass p r d n ⟨p, .selBcd⟩))) :
    ∃ m, Reaches m s
      (s.afterPass p (.busy w (.depoison c (passesLeft c.rep.toNat (bitAt p) p r d (n - 1))))) := by
  have hgap : (s.atGap p).seq = .busy w (.depoison c (.pass p r d n ⟨p, .gap⟩)) := by
    rw [State.atGap, hq, withPass]
  have hdark : ∀ q : Position, p < q → (s.atGap p).mask.getLsbD q.val = false := fun q hlt => by
    rw [State.atGap, hm, bitAt_getLsbD]
    exact decide_eq_false hlt.ne
  have hlast := step_lastGap (alone_of_busy ha hgap rfl rfl) hgap hdark
  refine ⟨_, (reaches_atGap ha (congrArg passOf hq)).trans ((reaches_zero.mpr ?_).step hlast)⟩
  simp only [State.atGap, State.afterPass, hq, hm, passSrc, State.frame]

/-- All the passes of a burst. -/
theorem reaches_burstPasses (hn : 1 ≤ n) (hq : s.seq = .busy w (.depoison c (.pass p r d n ⟨p, .selBcd⟩))) :
    ∃ m, Reaches m s (s.afterPass p (.busy w (.depoison c (afterBurst c.rep.toNat p r d)))) := by
  induction n, hn using Nat.le_induction generalizing s with
  | base => exact reaches_burstPass ha hm hq
  | succ n hn ih =>
    obtain ⟨m, hpass⟩ := reaches_burstPass ha hm hq
    rw [Nat.add_sub_cancel, passesLeft_of_lit hn (passStart_bitAt p)] at hpass
    obtain ⟨m', hrest⟩ := ih (s := s.afterPass p _) (alone_of_busy ha rfl rfl rfl) hm rfl
    exact ⟨_, hpass.trans hrest⟩

end Passes

/-- A whole burst. -/
theorem reaches_afterBurst {s : State} {w : Word} {c : DepoisonCtx} {p : Position} {r d : Nat} (ha : Alone s)
    (hq : s.seq = .busy w (.depoison c (.burst p r d))) :
    ∃ m, Reaches m s ((burstStep p d s).afterPass p (.busy w (.depoison c (afterBurst c.rep.toNat p r d)))) := by
  obtain ⟨m, hrest⟩ := reaches_burstPasses (s := (burstStep p d s).withSeq _) (alone_of_busy ha rfl rfl rfl) rfl
    (le_passesDraw 1 s) rfl
  exact ⟨_, hrest.step (step_burst ha hq)⟩

/-! ## From the first burst to the end -/

/-- `t` is `s` but for what the bursts of DEPOISON write (R95). -/
def DepoisonWrites (s t : State) : Prop :=
  t = { s with
    live := t.live, mask := t.mask, gate := t.gate, anode := t.anode, bcd := t.bcd, seq := t.seq
    env := { s.env with passes := t.env.passes, drawn := t.env.drawn } }

theorem DepoisonWrites.trans {s t u : State} (h : DepoisonWrites s t) (h' : DepoisonWrites t u) :
    DepoisonWrites s u := by
  rw [DepoisonWrites] at h'
  rw [h] at h'
  exact h'

theorem depoisonWrites_burst (s : State) (p : Position) (d : Nat) (q : Seq) :
    DepoisonWrites s ((burstStep p d s).afterPass p q) := rfl

/-- From any burst DEPOISON comes to its final STEP, with the anodes off and the gate closed. -/
theorem reaches_restore {s : State} {w : Word} {c : DepoisonCtx} {p : Position} {r d : Nat} (ha : Alone s)
    (hq : s.seq = .busy w (.depoison c (.burst p r d))) (hr : BurstInRange c.rep.toNat r d) :
    ∃ m t, Reaches m s t ∧ t.seq = .busy w (.depoison c .restore) ∧ t.gate = false ∧ t.anode = 0#6 ∧
      DepoisonWrites s t := by
  induction hk : 6 * c.rep.toNat * 10 - burstNumber c.rep.toNat p r d generalizing s p r d with
  | zero => exact absurd (burstNumber_lt p hr) (Nat.not_lt.mpr (Nat.sub_eq_zero_iff_le.mp hk))
  | succ k ih =>
    obtain ⟨m, hburst⟩ := reaches_afterBurst ha hq
    obtain ⟨hlast, -⟩ | ⟨p', r', d', hnext, hr', hnum⟩ := afterBurst_cases p hr
    · rw [hlast] at hburst
      exact ⟨m, _, hburst, rfl, rfl, rfl, depoisonWrites_burst s p d _⟩
    · rw [hnext] at hburst
      obtain ⟨m', t, hrest, hseq, hgate, hanode, hwrites⟩ :=
        ih (s := (burstStep p d s).afterPass p _) (p := p') (alone_of_busy ha rfl rfl rfl) rfl hr' (by omega)
      exact ⟨_, t, hburst.trans hrest, hseq, hgate, hanode, (depoisonWrites_burst s p d _).trans hwrites⟩

/-- After its first STEP DEPOISON comes to its final STEP; a burst made before it leaves the anodes off and the gate
closed. -/
theorem reaches_restore_of_first {s : State} {w : Word} {c : DepoisonCtx} (ha : Alone s)
    (hq : s.seq = .busy w (.depoison c (firstBurst c.rep.toNat))) :
    ∃ m t, Reaches m s t ∧ t.seq = .busy w (.depoison c .restore) ∧
      (1 ≤ c.rep.toNat → t.gate = false ∧ t.anode = 0#6) ∧ DepoisonWrites s t := by
  rcases Nat.eq_zero_or_pos c.rep.toNat with h0 | h1
  · rw [h0] at hq
    exact ⟨0, s, reaches_zero.mpr rfl, hq, fun h => by omega, rfl⟩
  · rw [firstBurst, if_neg h1.ne'] at hq
    obtain ⟨m, t, hrun, hseq, hgate, hanode, hwrites⟩ := reaches_restore ha hq ⟨le_rfl, h1, Nat.zero_le 9⟩
    exact ⟨m, t, hrun, hseq, fun _ => ⟨hgate, hanode⟩, hwrites⟩

/-- Settles O44: the decode step saves `live`, the bursts run to the final STEP, and that one ends the command. -/
theorem depoisonEndsAndRestoresLive : Obligations.DepoisonEndsAndRestoresLive := by
  unfold Obligations.DepoisonEndsAndRestoresLive
  intro s rep ha hq
  let c : DepoisonCtx := ⟨rep, s.live⟩
  let u := s.withSeq (.busy (encode (.depoison rep)) (.depoison c (firstBurst rep.toNat)))
  have hstart : step s = .next u := by
    rw [step_alone ha, seqStep, hq]
    simp only [busyStep, decode_encode]
    exact exec_depoison rep s
  obtain ⟨m, t, hrun, hseq, hout, hwrites⟩ :=
    reaches_restore_of_first (s := u) (c := c) (alone_of_busy ha rfl rfl rfl) rfl
  have hat : Alone t := alone_of_busy ha hseq (by rw [hwrites]; rfl) (by rw [hwrites]; rfl)
  have hend := (reaches_zero.mpr rfl).step (step_depoison hat hseq)
  refine ⟨_, _, (hrun.step hstart).trans hend, rfl, rfl, rfl, hout, ?_⟩
  exact congrArg (depoisonStep (encode (.depoison rep)) c .restore) hwrites

end Sys2Proof.Machine
end

section
/-! SUPPORT. Proofs of the family of 43_fault_display.md: the pattern FAULT shows, one STEP at each place of a report, and
the run from blink cycle to blink cycle to the last STEP of a non-blocking report. -/

namespace Sys2Proof.Machine

open Sys2Proof.Safety

/-! ## The pattern (R96, R98) -/

/-- The digits of the pattern "99xxxC", position 0 first: each is the draw R98 makes for it. -/
theorem faultPattern_live (code : BitVec 8) (s : State) :
    (faultPattern code s).live =
      #v[toDigit code.toNat, digitDraw (popDigits 2 s), digitDraw (popDigits 1 s), digitDraw s, 9#4, 9#4] := by
  apply Vector.ext
  intro i hi
  match i with
  | 0 | 1 | 2 | 3 | 4 | 5 => simp only [faultPattern, drawLive_frame, Vector.getElem_set]; rfl

theorem frameOk_faultPattern {code : BitVec 8} (hc : code.toNat ≤ 9) (s : State) :
    FrameOk (faultPattern code s).live := by
  rw [faultPattern_live]
  intro p
  match p with
  | 0 => exact isDigitValue_toDigit hc
  | 1 | 2 | 3 => exact isDigitValue_digitDraw _
  | 4 | 5 => exact (by decide : isDigitValue 9#4 = true)

/-- Three queued DigitValues are the three digits drawn. -/
theorem digitDraw_queued_three {s : State} {d3 d2 d1 : Digit} {rest : List Digit}
    (hq : s.env.digits = d3 :: d2 :: d1 :: rest) (h3 : isDigitValue d3 = true) (h2 : isDigitValue d2 = true)
    (h1 : isDigitValue d1 = true) :
    digitDraw s = d3 ∧ digitDraw (popDigits 1 s) = d2 ∧ digitDraw (popDigits 2 s) = d1 ∧
      (popDigits 3 s).env.digits = rest := by
  obtain ⟨hd3, hq⟩ := digitDraw_queued hq h3
  obtain ⟨hd2, hq⟩ := digitDraw_queued hq h2
  exact ⟨hd3, hd2, digitDraw_queued hq h1⟩

theorem encode_fault_toNat (code : BitVec 8) (blk : Bool) :
    (encode (.fault code blk)).toNat = 0x21000000 + code.toNat * 2 ^ 16 + blk.toNat :=
  encode_toNat_of_operands (by simp [opcode]) rfl (by cases blk <;> rfl)

/-- FAULT's first STEP, with a code in range: the pattern is in `live`, and the first ON STEP comes next. -/
theorem exec_fault {code : BitVec 8} (hc : code.toNat ≤ 9) (blk : Bool) (s : State) :
    exec (.fault code blk) s =
      .next { s with
        live := (faultPattern code s).live, halted := blk || s.halted
        seq := blinkSeq (if blk then none else some (encode (.fault code false))) (.mark .on 1)
        env := (popDigits 3 s).env } := by
  have hcode : isFaultCode code = true := decide_eq_true hc
  simp only [exec, execFault, if_pos hcode]
  cases blk <;> (rw [faultPattern_frame]; rfl)

/-- Settles O45: the pattern digit by digit, and the first STEP of each form. -/
theorem faultShowsThePattern : Obligations.FaultShowsThePattern := by
  unfold Obligations.FaultShowsThePattern
  intro s code blk
  refine ⟨encode_fault_toNat code blk, fun hc => ⟨_, exec_fault hc blk s, ?_⟩, fun hc => exec_illegal ?_ s⟩
  · have hok := frameOk_faultPattern hc s
    rw [faultPattern_live] at hok ⊢
    refine ⟨rfl, rfl, toDigit_toNat (by omega), rfl, rfl, rfl, fun d3 d2 d1 rest => digitDraw_queued_three, hok,
      ?blocking, ?nonblocking, rfl⟩
    case blocking => rintro rfl; exact ⟨rfl, rfl⟩
    case nonblocking => rintro rfl; exact ⟨rfl, rfl⟩
  · rw [Instr.wellFormed, isFaultCode, decide_eq_true_eq]
    omega

/-! ## The places of a report (R97, R98) -/

/-- Where a report goes with `n` passes of a phase still to make. -/
def phasePassesLeft (w : Option Word) (m : Mask) (phase : BlinkPhase) (cycle n : Nat) : Seq :=
  match passesStart m n with
  | some (n', k) => blinkSeq w (.pass phase cycle n' k)
  | none => afterPhase w phase cycle

theorem phasePassesLeft_zero (w : Option Word) (m : Mask) (phase : BlinkPhase) (cycle : Nat) :
    phasePassesLeft w m phase cycle 0 = afterPhase w phase cycle := rfl

theorem phasePassesLeft_of_lit {m : Mask} {p : Position} {n : Nat} (hn : 1 ≤ n) (hm : passStart m = some ⟨p, .selBcd⟩)
    (w : Option Word) (phase : BlinkPhase) (cycle : Nat) :
    phasePassesLeft w m phase cycle n = blinkSeq w (.pass phase cycle n ⟨p, .selBcd⟩) := by
  simp only [phasePassesLeft, passesStart, if_neg (Nat.one_le_iff_ne_zero.mp hn), hm, Option.map_some]

theorem phasePassesLeft_of_dark {m : Mask} (hm : passStart m = none) (w : Option Word) (phase : BlinkPhase)
    (cycle n : Nat) : phasePassesLeft w m phase cycle n = afterPhase w phase cycle := by
  simp only [phasePassesLeft, passesStart, hm, Option.map_none, ite_self]

theorem passStart_faultOnMask : passStart Config.faultOnMask = some ⟨0, .selBcd⟩ := by decide

theorem afterPhase_off_of_lt (w : Option Word) {cycle : Nat} (h : cycle < 4) :
    afterPhase w .off cycle = blinkSeq w (.mark .on (cycle + 1)) := if_pos h

theorem afterPhase_off_of_ge (w : Option Word) {cycle : Nat} (h : 4 ≤ cycle) :
    afterPhase w .off cycle = w.elim (.halted (.mark .on 1)) (.busy · .faultEnd) := by
  have hlast : ¬ cycle < Config.faultCycles := Nat.not_lt.mpr h
  cases w <;> exact if_neg hlast

section Steps

variable {s : State} {w : Option Word} {j : Nat} (ha : Alone s)
include ha

theorem step_fault {k : FaultPos} (hq : s.seq = blinkSeq w k) : step s = .next (faultStep w k s) := by
  rw [step_alone ha, seqStep, hq]
  cases w <;> rfl

/-- The ON or OFF STEP draws its number of passes and goes to the first of them. -/
theorem step_mark {phase : BlinkPhase} (hq : s.seq = blinkSeq w (.mark phase j)) :
    step s = .next ((blinkStep phase s).withSeq
      (phasePassesLeft w (blinkMask phase) phase j (passesDraw 1 s))) := by
  have hstart : (faultStep w (.mark phase j) s).seq =
      phasePassesLeft w (blinkMask phase) phase j (passesDraw 1 s) := by
    simp only [faultStep, phasePassesLeft, blinkStep]
    cases passesStart (blinkMask phase) (passesDraw 1 s) <;> rfl
  rw [step_fault ha hq, faultStep_mark_eq, hstart]

theorem step_mark_on (hq : s.seq = blinkSeq w (.mark .on j)) :
    step s = .next ((blinkStep .on s).withSeq (blinkSeq w (.pass .on j (passesDraw 1 s) ⟨0, .selBcd⟩))) := by
  rw [step_mark ha hq, ← phasePassesLeft_of_lit (le_passesDraw 1 s) passStart_faultOnMask]
  rfl

/-- The OFF phase lights nothing, so no STEP of a pass follows. -/
theorem step_mark_off (hq : s.seq = blinkSeq w (.mark .off j)) :
    step s = .next ((blinkStep .off s).withSeq (afterPhase w .off j)) := by
  have hdark : passStart (blinkMask .off) = none := by decide
  rw [step_mark ha hq, phasePassesLeft_of_dark hdark]

/-- The GAP of the highest lit position ends a pass of a phase. -/
theorem step_phaseLastGap {phase : BlinkPhase} {i : Position} {n : Nat}
    (hq : s.seq = blinkSeq w (.pass phase j n ⟨i, .gap⟩))
    (hdark : ∀ p : Position, i < p → s.mask.getLsbD p.val = false) :
    step s = .next { s with
      anode := 0#6, gate := false, seq := phasePassesLeft w s.mask phase j (n - 1) } := by
  have hnext : passesNext n ⟨i, .gap⟩ (passStep .live ⟨i, .gap⟩ s) = passesStart s.mask (n - 1) := by
    rw [passesNext, passNext_passStep, passNext_gap_last hdark, passStep_mask]
  have hend : (faultStep w (.pass phase j n ⟨i, .gap⟩) s).seq = phasePassesLeft w s.mask phase j (n - 1) := by
    simp only [faultStep, phasePassesLeft, hnext]
    cases passesStart s.mask (n - 1) <;> rfl
  rw [step_fault ha hq, faultStep_pass_eq, hend]
  rfl

theorem step_faultEnd {w : Word} (hq : s.seq = .busy w .faultEnd) : step s = .next (faultEndStep s) := by
  rw [step_alone ha, seqStep, hq]
  rfl

end Steps

/-- Both forms of a report at once: `Halted` is `blinkSeq none`, and `Busy` is `blinkSeq (some w)`. -/
theorem exists_blinkSeq {w : Word} {q : FaultPos → Seq} (h : q = Seq.halted ∨ q = fun k => .busy w (.fault k)) :
    ∃ v, q = blinkSeq v ∧ (q = Seq.halted → v = none) ∧ (q = (fun k => .busy w (.fault k)) → v = some w) := by
  have hne : Seq.halted ≠ fun k => .busy w (.fault k) := fun he => nomatch congrFun he (.mark .on 1)
  rcases h with rfl | rfl
  · exact ⟨none, rfl, fun _ => rfl, fun he => absurd he hne⟩
  · exact ⟨some w, rfl, fun he => absurd he.symm hne, fun _ => rfl⟩

/-- Settles O46: each place of a report, by its own STEP. -/
theorem faultBlinksFourCycles : Obligations.FaultBlinksFourCycles := by
  unfold Obligations.FaultBlinksFourCycles
  intro s w q j ha hform
  obtain ⟨v, rfl, hblocking, hnonblocking⟩ := exists_blinkSeq hform
  refine ⟨fun hq => ?_, fun i n hq hdark => ?_, fun hq => ?_, fun hq => step_faultEnd ha hq⟩
  · exact ⟨_, step_mark_on ha hq, le_passesDraw 1 s, rfl, rfl, fun n rest => passesDraw_queued, rfl⟩
  · refine ⟨_, step_phaseLastGap ha hq hdark, ?_, fun p hn hlit hlow => ?_, rfl⟩
    · rintro rfl
      exact phasePassesLeft_zero v s.mask .on j
    · exact phasePassesLeft_of_lit (by omega) (passStart_of_lowest hlit hlow) v .on j
  · refine ⟨_, step_mark_off ha hq, rfl, fun hj => afterPhase_off_of_lt v hj, fun hj hb => ?_, fun hj hb => ?_, rfl⟩
    · rw [hblocking hb]
      exact afterPhase_off_of_ge none hj
    · rw [hnonblocking hb]
      exact afterPhase_off_of_ge (some w) hj

/-! ## From cycle to cycle (R97) -/

section Passes

variable {s : State} {w : Word} {j n : Nat} (ha : Alone s) (hm : s.mask = Config.faultOnMask)
include ha hm

/-- One pass of the ON phase, from position 0 to position 5. -/
theorem reaches_onPass (hq : s.seq = blinkSeq (some w) (.pass .on j n ⟨0, .selBcd⟩)) :
    ∃ m, Reaches m s (s.afterPass 5 (phasePassesLeft (some w) Config.faultOnMask .on j (n - 1))) := by
  have hgap : (s.atGap 5).seq = blinkSeq (some w) (.pass .on j n ⟨5, .gap⟩) := by
    rw [State.atGap, hq]
    rfl
  have hdark : ∀ p : Position, 5 < p → s.mask.getLsbD p.val = false := by
    rw [hm]
    decide
  have hlow : nextLit s.mask 0 = some 0 := by
    rw [hm]
    decide
  have hlit : s.mask.getLsbD (5 : Position).val = true := by
    rw [hm]
    decide
  have hlast := step_phaseLastGap (alone_of_busy ha hgap rfl rfl) hgap hdark
  refine ⟨_, reaches_pass (i := 0) ha (congrArg passOf hq) hlow hlit hdark (hlast.trans ?_)⟩
  simp only [State.atGap, State.afterPass, hq, hm, passSrc, blinkSeq, State.frame]

/-- All the passes of the ON phase; the OFF STEP of the same cycle follows. -/
theorem reaches_onPasses (hn : 1 ≤ n) (hq : s.seq = blinkSeq (some w) (.pass .on j n ⟨0, .selBcd⟩)) :
    ∃ m, Reaches m s (s.afterPass 5 (blinkSeq (some w) (.mark .off j))) := by
  induction n, hn using Nat.le_induction generalizing s with
  | base => exact reaches_onPass ha hm hq
  | succ n hn ih =>
    obtain ⟨m, hpass⟩ := reaches_onPass ha hm hq
    rw [Nat.add_sub_cancel, phasePassesLeft_of_lit hn passStart_faultOnMask] at hpass
    obtain ⟨m', hrest⟩ := ih (s := s.afterPass 5 _) (alone_of_busy ha rfl rfl rfl) hm rfl
    exact ⟨_, hpass.trans hrest⟩

end Passes

/-- The state after a blink cycle: its ON phase, and its dark OFF phase. -/
def State.afterCycle (s : State) (w : Word) (j : Nat) : State :=
  (blinkStep .off ((blinkStep .on s).afterPass 5 (blinkSeq (some w) (.mark .off j)))).withSeq (afterPhase (some w) .off j)

/-- A whole blink cycle. -/
theorem reaches_afterCycle {s : State} {w : Word} {j : Nat} (ha : Alone s)
    (hq : s.seq = blinkSeq (some w) (.mark .on j)) : ∃ m, Reaches m s (s.afterCycle w j) := by
  obtain ⟨m, hpasses⟩ := reaches_onPasses (s := (blinkStep .on s).withSeq _) (alone_of_busy ha rfl rfl rfl) rfl
    (le_passesDraw 1 s) rfl
  have hoff := (reaches_zero.mpr rfl).step
    (step_mark_off (s := (blinkStep .on s).afterPass 5 _)
    (w := some w) (j := j) (alone_of_busy ha rfl rfl rfl) rfl)
  exact ⟨_, (hpasses.step (step_mark_on ha hq)).trans hoff⟩

/-! ## From the first cycle to the end (R98) -/

/-- `t` is `s` but for what whole blink cycles write: they leave every anode off and the gate closed. -/
def BlinkWrites (s t : State) : Prop :=
  t = { s with
    mask := t.mask, gate := false, anode := 0#6, bcd := t.bcd, seq := t.seq
    env := { s.env with passes := t.env.passes, drawn := t.env.drawn } }

theorem BlinkWrites.trans {s t u : State} (h : BlinkWrites s t) (h' : BlinkWrites t u) : BlinkWrites s u := by
  rw [BlinkWrites] at h'
  rw [h] at h'
  exact h'

theorem blinkWrites_afterCycle (s : State) (w : Word) (j : Nat) : BlinkWrites s (s.afterCycle w j) := rfl

/-- From any ON STEP a non-blocking report comes to its last STEP. -/
theorem reaches_faultEnd {s : State} {w : Word} {j : Nat} (ha : Alone s)
    (hq : s.seq = blinkSeq (some w) (.mark .on j)) :
    ∃ m t, Reaches m s t ∧ t.seq = .busy w .faultEnd ∧ BlinkWrites s t := by
  induction hk : 4 - j generalizing s j with
  | zero =>
    obtain ⟨m, hcycle⟩ := reaches_afterCycle ha hq
    have hlast : 4 ≤ j := Nat.sub_eq_zero_iff_le.mp hk
    exact ⟨m, _, hcycle, afterPhase_off_of_ge (some w) hlast, blinkWrites_afterCycle s w j⟩
  | succ k ih =>
    obtain ⟨m, hcycle⟩ := reaches_afterCycle ha hq
    have hnext : (s.afterCycle w j).seq = blinkSeq (some w) (.mark .on (j + 1)) :=
      afterPhase_off_of_lt (some w) (show j < 4 by omega)
    obtain ⟨m', t, hrest, hseq, hwrites⟩ := ih (alone_of_busy ha hnext rfl rfl) hnext (by omega)
    exact ⟨_, t, hcycle.trans hrest, hseq, (blinkWrites_afterCycle s w j).trans hwrites⟩

/-- Settles O47: the decode step shows the pattern, the cycles run to the last STEP, and that one ends the command. -/
theorem nonBlockingFaultEnds : Obligations.NonBlockingFaultEnds := by
  unfold Obligations.NonBlockingFaultEnds
  intro s code ha hc hq
  let w := encode (.fault code false)
  let u : State := { s with
    live := (faultPattern code s).live, seq := blinkSeq (some w) (.mark .on 1), env := (popDigits 3 s).env }
  have hstart : step s = .next u := by
    rw [step_alone ha, seqStep, hq]
    simp only [busyStep, decode_encode]
    exact exec_fault hc false s
  obtain ⟨m, t, hrun, hseq, hwrites⟩ := reaches_faultEnd (s := u) (alone_of_busy ha rfl rfl rfl) rfl
  have hat : Alone t := alone_of_busy ha hseq (by rw [hwrites]; rfl) (by rw [hwrites])
  have hend := (reaches_zero.mpr rfl).step (step_faultEnd hat hseq)
  have hlive : (faultEndStep t).live = _ := (congrArg State.live hwrites).trans (faultPattern_live code s)
  refine ⟨_, _, (hrun.step hstart).trans hend, rfl, rfl, ?_, ?_, ?_, ?_, ?_, ?_⟩
  · rw [hlive]; rfl
  · rw [hlive]; rfl
  · rw [hlive]; exact toDigit_toNat (by omega)
  · exact congrArg State.gate hwrites
  · exact congrArg State.anode hwrites
  · rw [hwrites]; rfl

end Sys2Proof.Machine
end

section
/-! SUPPORT. Proofs of the family of 44_set_mode.md: what each button does in each state of `ui`, the overlay refresh,
and the fields the set mode may write. -/

namespace Sys2Proof.Machine

/-! ## The mode button (R101, R102) -/

theorem exec_btnmode (s : State) : exec .btnmode s = .next ((modeStep s).withSeq .idle) := rfl

theorem modeStep_idle {s : State} (hu : s.ui = .idle) :
    modeStep s = { popClock s with pend := pendOf (clockDraw s), ui := .editMinutes } := by
  rw [modeStep, hu]

theorem modeStep_editDay {s : State} (hu : s.ui = .editDay) : modeStep s = commit s := by
  rw [modeStep, hu]

theorem modeStep_showingDate {s : State} (hu : s.ui = .showingDate) : modeStep s = s := by
  rw [modeStep, hu]

/-- A draft loaded from a clock answer in range loses nothing to the widths of its fields. -/
theorem pendOf_toNat {a : Config.ClockAnswer} (ha : a.InRange) :
    (pendOf a).year.toNat = a.year % 100 ∧ (pendOf a).month.toNat = a.month ∧ (pendOf a).day.toNat = a.day ∧
      (pendOf a).hour.toNat = a.hour ∧ (pendOf a).minute.toNat = a.minute := by
  obtain ⟨-, hmonth, -, hday, hhour, hminute, -⟩ := ha
  simp only [pendOf, BitVec.toNat_ofNat]
  omega

/-- Settles O48: in Idle the draft is a clock answer in range, and the edit states follow each other to the commit. -/
theorem btnmodeWalksTheEditStates : Obligations.BtnmodeWalksTheEditStates := by
  unfold Obligations.BtnmodeWalksTheEditStates
  refine ⟨by decide, fun s =>
    ⟨fun hu => ?idle, ?editMinutes, ?editHours, ?editYear, ?editMonth, ?editDay, ?showingDate⟩⟩
  case idle =>
    obtain ⟨hyear, hmonth, hday, hhour, hminute⟩ := pendOf_toNat (clockDraw_inRange s)
    rw [exec_btnmode, modeStep_idle hu]
    exact ⟨_, rfl, rfl, hyear, hmonth, hday, hhour, hminute, rfl, fun a rest hq ha => clockDraw_queued hq ha, rfl⟩
  case editDay =>
    intro hu
    rw [exec_btnmode, modeStep_editDay hu]
    rfl
  case showingDate =>
    intro hu
    rw [exec_btnmode, modeStep_showingDate hu]
    rfl
  case editMinutes | editHours | editYear | editMonth =>
    intro hu
    rw [exec_btnmode, modeStep, hu]
    rfl

/-! ## The adjust button (R99, R103, R104) -/

theorem exec_btnadj (s : State) : exec .btnadj s = .next ((adjustStep s).withSeq .idle) := rfl

theorem adjustStep_idle {s : State} (hu : s.ui = .idle) :
    adjustStep s = { popClock s with ovl := dateFrame (clockDraw s), mask := allOn, ui := .showingDate } := by
  rw [adjustStep, hu]

theorem adjustStep_showingDate {s : State} (hu : s.ui = .showingDate) :
    adjustStep s = { s with mask := liveMask s, ui := .idle } := by
  rw [adjustStep, hu]

/-- The adjust button's edit of the draft in a state of `ui`; Idle and ShowingDate edit nothing. -/
def editOf : Ui → Pending → Pending
  | .editMinutes => minuteUp
  | .editHours => hourUp
  | .editYear => yearUp
  | .editMonth => monthUp
  | .editDay => dayUp
  | .idle => id
  | .showingDate => id

theorem adjustStep_edit {s : State} (hi : s.ui ≠ .idle) (hd : s.ui ≠ .showingDate) :
    adjustStep s = { s with pend := editOf s.ui s.pend } := by
  cases hu : s.ui
  case idle => exact absurd hu hi
  case showingDate => exact absurd hu hd
  all_goals rw [adjustStep, hu]; rfl

/-! ### The edits -/

theorem minuteUp_minute (p : Pending) : (minuteUp p).minute.toNat = (p.minute.toNat + 1) % 60 := by
  simp only [minuteUp, BitVec.toNat_ofNat]; omega

theorem hourUp_hour (p : Pending) : (hourUp p).hour.toNat = (p.hour.toNat + 1) % 24 := by
  simp only [hourUp, BitVec.toNat_ofNat]; omega

theorem yearUp_year (p : Pending) : (yearUp p).year.toNat = (p.year.toNat + 1) % 100 := by
  simp only [yearUp, BitVec.toNat_ofNat]; omega

theorem monthUp_month (p : Pending) :
    (monthUp p).month.toNat = if 12 ≤ p.month.toNat then 1 else p.month.toNat + 1 := by
  simp only [monthUp]
  split
  · rfl
  · simp only [BitVec.toNat_ofNat]; omega

/-- No month is longer than 31 days, so the next day fits its field. -/
theorem dayUp_day (p : Pending) :
    (dayUp p).day.toNat = if monthLen p.month.toNat ≤ p.day.toNat then 1 else p.day.toNat + 1 := by
  have hlen := monthLen_le p.month.toNat
  simp only [dayUp]
  split
  · rfl
  · simp only [BitVec.toNat_ofNat]; omega

/-! ### The date frame and the live mask -/

/-- The digits of a frame of three values whose tens are digit codes. -/
theorem frameOf_toNat {lo mid hi : Nat} (hlo : lo ≤ 159) (hmid : mid ≤ 159) (hhi : hi ≤ 159) :
    (frameOf lo mid hi)[0].toNat = lo % 10 ∧ (frameOf lo mid hi)[1].toNat = lo / 10 ∧
      (frameOf lo mid hi)[2].toNat = mid % 10 ∧ (frameOf lo mid hi)[3].toNat = mid / 10 ∧
      (frameOf lo mid hi)[4].toNat = hi % 10 ∧ (frameOf lo mid hi)[5].toNat = hi / 10 :=
  ⟨units_toNat lo, tens_toNat hlo, units_toNat mid, tens_toNat hmid, units_toNat hi, tens_toNat hhi⟩

theorem dateFrame_toNat {a : Config.ClockAnswer} (ha : a.InRange) :
    (dateFrame a)[0].toNat = a.day % 10 ∧ (dateFrame a)[1].toNat = a.day / 10 ∧
      (dateFrame a)[2].toNat = a.month % 10 ∧ (dateFrame a)[3].toNat = a.month / 10 ∧
      (dateFrame a)[4].toNat = a.year % 100 % 10 ∧ (dateFrame a)[5].toNat = a.year % 100 / 10 := by
  obtain ⟨-, hmonth, -, hday, -⟩ := ha
  exact frameOf_toNat (by omega) (by omega) (by omega)

theorem liveMask_getLsbD (s : State) :
    (liveMask s).getLsbD 5 = decide (s.live[5] ≠ 0#4) ∧
      (liveMask s).getLsbD 4 = (decide (s.live[5] ≠ 0#4) || decide (s.live[4] ≠ 0#4)) ∧
      ∀ i < 4, (liveMask s).getLsbD i = true := by
  have hbne (d : Digit) : decide (d ≠ 0#4) = (d != 0#4) := by rw [decide_not]; rfl
  rw [hbne, hbne]
  exact hourMask_getLsbD ..

/-- LiveMask of the digits SHOWTIME writes for an hour is BlankMask of the hour (R86, R104). -/
theorem liveMask_eq_blankMask {s : State} {h : Nat} (h5 : s.live[5].toNat = h / 10) (h4 : s.live[4].toNat = h % 10) :
    liveMask s = blankMask h := by
  have hbne (d : Digit) : (d != 0#4) = (d.toNat != 0) := by revert d; decide
  rw [liveMask, hbne, hbne, h5, h4, blankMask]

/-- Settles O49: Idle, the five edits and ShowingDate. -/
theorem btnadjEditsOneField : Obligations.BtnadjEditsOneField := by
  unfold Obligations.BtnadjEditsOneField
  refine ⟨by decide, fun s => ⟨fun hu => ?_, fun hi hd => ?_, fun hu => ?_⟩⟩
  · obtain ⟨h0, h1, h2, h3, h4, h5⟩ := dateFrame_toNat (clockDraw_inRange s)
    rw [exec_btnadj, adjustStep_idle hu]
    exact ⟨_, rfl, rfl, rfl, h0, h1, h2, h3, h4, h5, rfl, fun a rest hq ha => clockDraw_queued hq ha, rfl⟩
  · rw [exec_btnadj, adjustStep_edit hi hd]
    refine ⟨_, rfl, rfl, fun hu => ?_, fun hu => ?_, fun hu => ?_, fun hu => ?_, fun hu => ?_⟩ <;>
      simp only [State.withSeq_pend, hu, editOf]
    · exact ⟨minuteUp_minute s.pend, rfl⟩
    · exact ⟨hourUp_hour s.pend, rfl⟩
    · exact ⟨yearUp_year s.pend, rfl⟩
    · exact ⟨monthUp_month s.pend, rfl⟩
    · exact ⟨dayUp_day s.pend, rfl⟩
  · obtain ⟨h5, h4, hlow⟩ := liveMask_getLsbD s
    rw [exec_btnadj, adjustStep_showingDate hu]
    exact ⟨_, rfl, h5, h4, hlow, rfl⟩

/-- Settles O51: LiveMask reads the two hour digits alone. -/
theorem leavingDateModeRestoresTheBlanking : Obligations.LeavingDateModeRestoresTheBlanking := by
  unfold Obligations.LeavingDateModeRestoresTheBlanking
  intro s h _ hu h5 h4
  rw [exec_btnadj, adjustStep_showingDate hu, liveMask_eq_blankMask h5 h4]
  rfl

/-! ### The day in its month (R99, R107) -/

theorem one_le_monthLen (m : Nat) : 1 ≤ monthLen m := by
  simp only [monthLen]
  rcases Nat.lt_or_ge (m - 1) 12 with h | h
  · generalize m - 1 = n at h ⊢; revert n; decide
  · rw [List.getD_eq_default _ _ h]; decide

theorem dayUp_inMonth (p : Pending) :
    1 ≤ (dayUp p).day.toNat ∧ (dayUp p).day.toNat ≤ monthLen (dayUp p).month.toNat := by
  have hmonth : (dayUp p).month = p.month := rfl
  have hlen := one_le_monthLen p.month.toNat
  rw [hmonth, dayUp_day]
  split <;> omega

/-- Settles O50: the edit goes back to day 1 at the end of the month, whatever day it starts from. -/
theorem dayEditStaysInTheMonth : Obligations.DayEditStaysInTheMonth := by
  unfold Obligations.DayEditStaysInTheMonth
  refine ⟨fun s t hp hu ht => ?_, by decide, by decide, by decide⟩
  have hpend : t.pend = dayUp s.pend := by
    rw [exec_btnadj, adjustStep_edit (by rw [hu]; decide) (by rw [hu]; decide), hu] at ht
    cases ht
    rfl
  obtain ⟨hlow, hhigh⟩ := dayUp_inMonth s.pend
  rw [hpend]
  exact ⟨hlow, hhigh, pendOk_dayUp hp⟩

/-! ## The overlay refresh (R92, R105) -/

theorem overlayRefresh_time {s : State} (hu : s.ui = .editMinutes ∨ s.ui = .editHours) :
    overlayRefresh s = { s with ovl := overlayRefresh.timeOverlay s.pend, mask := 0b111100#6 } := by
  rcases hu with hu | hu <;> rw [overlayRefresh, hu]

theorem overlayRefresh_date {s : State} (hu : s.ui = .editYear ∨ s.ui = .editMonth ∨ s.ui = .editDay) :
    overlayRefresh s = { s with ovl := overlayRefresh.dateOverlay s.pend, mask := allOn } := by
  rcases hu with hu | hu | hu <;> rw [overlayRefresh, hu]

theorem overlayRefresh_showingDate {s : State} (hu : s.ui = .showingDate) :
    overlayRefresh s = { s with mask := allOn } := by
  rw [overlayRefresh, hu]

theorem timeOverlay_toNat (p : Pending) :
    (overlayRefresh.timeOverlay p)[0] = 15#4 ∧ (overlayRefresh.timeOverlay p)[1] = 15#4 ∧
      (overlayRefresh.timeOverlay p)[2].toNat = p.minute.toNat % 10 ∧
      (overlayRefresh.timeOverlay p)[3].toNat = p.minute.toNat / 10 ∧
      (overlayRefresh.timeOverlay p)[4].toNat = p.hour.toNat % 10 ∧
      (overlayRefresh.timeOverlay p)[5].toNat = p.hour.toNat / 10 := by
  have hminute := p.minute.isLt
  have hhour := p.hour.isLt
  obtain ⟨-, -, h2, h3, h4, h5⟩ := frameOf_toNat (Nat.zero_le 159)
    (show p.minute.toNat ≤ 159 by omega) (show p.hour.toNat ≤ 159 by omega)
  exact ⟨rfl, rfl, h2, h3, h4, h5⟩

theorem dateOverlay_toNat (p : Pending) :
    (overlayRefresh.dateOverlay p)[0].toNat = p.day.toNat % 10 ∧
      (overlayRefresh.dateOverlay p)[1].toNat = p.day.toNat / 10 ∧
      (overlayRefresh.dateOverlay p)[2].toNat = p.month.toNat % 10 ∧
      (overlayRefresh.dateOverlay p)[3].toNat = p.month.toNat / 10 ∧
      (overlayRefresh.dateOverlay p)[4].toNat = p.year.toNat % 10 ∧
      (overlayRefresh.dateOverlay p)[5].toNat = p.year.toNat / 10 := by
  have hday := p.day.isLt
  have hmonth := p.month.isLt
  have hyear := p.year.isLt
  exact frameOf_toNat (by omega) (by omega) (by omega)

/-- The lowest position the overlay lights: with a time draft the two seconds positions are off. -/
def overlayStart : Ui → Position
  | .editMinutes => 2
  | .editHours => 2
  | .idle => 0
  | .editYear => 0
  | .editMonth => 0
  | .editDay => 0
  | .showingDate => 0

theorem passStart_overlayRefresh {s : State} (hu : s.ui ≠ .idle) :
    passStart (overlayRefresh s).mask = some ⟨overlayStart s.ui, .selBcd⟩ := by
  have htime : passStart 0b111100#6 = some ⟨2, .selBcd⟩ := by decide
  have hall : passStart allOn = some ⟨0, .selBcd⟩ := by decide
  cases h : s.ui <;> rw [overlayRefresh, h]
  case idle => exact absurd h hu
  case editMinutes | editHours => exact htime
  case editYear | editMonth | editDay | showingDate => exact hall

/-- Away from Idle, RENDER's first STEP is REFRESH alone, and a pass over `ovl` follows. -/
theorem exec_render_overlay {s : State} (hu : s.ui ≠ .idle) :
    exec .render s =
      .next ((overlayRefresh s).withSeq (.busy 0x15000000#32 (.render .ovl ⟨overlayStart s.ui, .selBcd⟩))) := by
  simp only [exec, execRender, if_neg hu, passStart_overlayRefresh hu, State.goTo_eq, encode_render]

/-- Settles O38: the refresh in each kind of state, and the lowest position it lights. -/
theorem renderOverlayRefreshes : Obligations.RenderOverlayRefreshes := by
  unfold Obligations.RenderOverlayRefreshes
  intro s hi
  refine ⟨_, exec_render_overlay hi, ?_, fun hu => ?_, fun hu => ?_, fun hu => ?_⟩
  · rw [overlayRefresh_frame]
    rfl
  · obtain ⟨h0, h1, h2, h3, h4, h5⟩ := timeOverlay_toNat s.pend
    have hstart : overlayStart s.ui = 2 := by rcases hu with hu | hu <;> rw [hu] <;> rfl
    rw [overlayRefresh_time hu, hstart]
    exact ⟨rfl, h0, h1, h2, h3, h4, h5, rfl⟩
  · obtain ⟨h0, h1, h2, h3, h4, h5⟩ := dateOverlay_toNat s.pend
    have hstart : overlayStart s.ui = 0 := by rcases hu with hu | hu | hu <;> rw [hu] <;> rfl
    rw [overlayRefresh_date hu, hstart]
    exact ⟨rfl, h0, h1, h2, h3, h4, h5, rfl⟩
  · rw [overlayRefresh_showingDate hu, hu]
    exact ⟨rfl, rfl, rfl⟩

/-! ## The set mode's writes (R106) -/

/-- The buttons draw clock answers alone. -/
theorem modeStep_env (s : State) :
    (modeStep s).env = { s.env with clocks := (modeStep s).env.clocks, drawn := (modeStep s).env.drawn } := by
  simp only [modeStep]; split <;> rfl

theorem adjustStep_env (s : State) :
    (adjustStep s).env = { s.env with clocks := (adjustStep s).env.clocks, drawn := (adjustStep s).env.drawn } := by
  simp only [adjustStep]; split <;> rfl

/-- `t` is `s` but for what the set mode may write. -/
def SetModeWrites (s t : State) : Prop :=
  t = { s with
    ui := t.ui, pend := t.pend, ovl := t.ovl, mask := t.mask, sec := t.sec, log := t.log, seq := t.seq
    env := { s.env with clocks := t.env.clocks, drawn := t.env.drawn } }

theorem SetModeWrites.live_eq {s t : State} (h : SetModeWrites s t) : t.live = s.live := by
  rw [SetModeWrites] at h
  rw [h]

theorem setModeWrites_modeStep (s : State) (q : Seq) : SetModeWrites s ((modeStep s).withSeq q) := by
  rw [SetModeWrites, State.withSeq_env, ← modeStep_env, modeStep_frame]
  rfl

theorem setModeWrites_adjustStep (s : State) (q : Seq) : SetModeWrites s ((adjustStep s).withSeq q) := by
  rw [SetModeWrites, State.withSeq_env, ← adjustStep_env, adjustStep_frame]
  rfl

theorem setModeWrites_overlayRefresh (s : State) (q : Seq) : SetModeWrites s ((overlayRefresh s).withSeq q) := by
  rw [overlayRefresh_frame]
  rfl

/-- Settles O52: each of the three is a move of `seq` after an operation with its own frame. -/
theorem setModeNeverWritesLive : Obligations.SetModeNeverWritesLive := by
  unfold Obligations.SetModeNeverWritesLive
  intro s t i hi ht
  have hw : SetModeWrites s t := by
    rcases hi with rfl | rfl | ⟨rfl, hu⟩
    · cases ht
      exact setModeWrites_modeStep s .idle
    · cases ht
      exact setModeWrites_adjustStep s .idle
    · rw [exec_render_overlay hu] at ht
      cases ht
      exact setModeWrites_overlayRefresh s _
  exact ⟨hw.live_eq, hw⟩

end Sys2Proof.Machine
end

section
/-! SUPPORT. Proofs of the family of 60_exceptions.md: no state stops the machine, IllegalCommand is the only writer of `err`
and comes from the decode step alone, and the tick handler counts the second. -/

namespace Sys2Proof.Machine

open Sys2Proof.Safety

/-! ## Every step proceeds (R111) -/

theorem busyStep_next (w : Word) (k : Pos) (s : State) : ∃ t, busyStep w k s = .next t := by
  cases k with
  | start =>
    simp only [busyStep]
    split
    · exact exec_next _ s
    · exact ⟨_, rfl⟩
  | render | depoison | fault | faultEnd | cal => exact ⟨_, rfl⟩

theorem seqStep_next (s : State) : ∃ t, seqStep s = .next t := by
  simp only [seqStep]
  split
  · exact ⟨_, rfl⟩
  · exact busyStep_next _ _ s
  · exact ⟨_, rfl⟩

theorem coreStep_next (s : State) : ∃ t, coreStep s = .next t := by
  simp only [coreStep]
  split
  · exact seqStep_next s
  · exact ⟨_, rfl⟩

/-- Settles O9: an input that takes effect answers a next state, and so does every STEP of the core. -/
theorem everyStepProceeds : Obligations.EveryStepProceeds := by
  unfold Obligations.EveryStepProceeds
  intro s
  cases hu : s.env.upcoming with
  | none => rw [step_waiting (.inl hu)]; exact coreStep_next s
  | some m =>
    simp only [step, machineStep, hu]
    cases m with
    | run => exact coreStep_next _
    | tick | reset => exact ⟨_, rfl⟩
    | startTick | offer w =>
      dsimp only
      split
      · exact ⟨_, rfl⟩
      · exact coreStep_next s

/-! ## IllegalCommand (R60, R63, R110) -/

/-- The decode step of a word that spells no command, or one with an operand out of range, is IllegalCommand. -/
theorem busyStep_illegal {w : Word} (h : decode w = none ∨ ∃ i, decode w = some i ∧ i.wellFormed = false) (s : State) :
    busyStep w .start s = .next (illegalCommand s) := by
  rcases h with hd | ⟨i, hd, hi⟩
  · simp only [busyStep, hd]
  · simp only [busyStep, hd]
    exact exec_illegal (by rw [hi]; nofun) s

/-- Settles O13: with no edge pending and no input to take, the step is the decode step. -/
theorem illegalWordSetsErrAlone : Obligations.IllegalWordSetsErrAlone := by
  unfold Obligations.IllegalWordSetsErrAlone
  intro s w hq ha hw
  rw [step_alone ha, seqStep, hq]
  exact busyStep_illegal hw s

/-- Settles O14: `exec_illegal` for the commands out of range, `exec_cases` for the others. -/
theorem execRaisesExactlyWhenIllFormed : Obligations.ExecRaisesExactlyWhenIllFormed := by
  unfold Obligations.ExecRaisesExactlyWhenIllFormed
  refine ⟨fun i s hi => exec_illegal (by rw [hi]; nofun) s, fun i s t hi ht => ?_⟩
  rcases exec_cases ht with ⟨hn, -⟩ | ⟨-, herr, -⟩
  · rw [hi] at hn; cases hn
  · exact herr

/-! ## Only the decode step writes `err` (R22, R110) -/

/-- A STEP of the core keeps `err`, or it is a decode step that sets it and returns to Idle. -/
theorem coreStep_err {s t : State} (h : coreStep s = .next t) :
    t.err = s.err ∨ (∃ w, s.seq = .busy w .start) ∧ t.err = true ∧ t.seq = .idle := by
  rcases coreStep_cases h with ⟨-, rfl⟩ | ⟨-, -, rfl⟩ | ⟨-, k, -, rfl⟩ | ⟨-, w, k, hq, hb⟩
  · exact .inl rfl
  · left; simp only [acceptStep]; split <;> rfl
  · left; rw [faultStep_frame]
  · rcases busyStep_cases hb with ⟨rfl, -, rfl⟩ | ⟨rfl, i, -, he⟩ | ⟨_, _, -, rfl⟩ | ⟨_, _, -, rfl⟩ | ⟨_, -, rfl⟩ |
      ⟨-, rfl⟩ | ⟨_, _, -, rfl⟩
    · exact .inr ⟨⟨w, hq⟩, rfl, rfl⟩
    · rcases exec_cases he with ⟨-, rfl⟩ | ⟨-, herr, -⟩
      · exact .inr ⟨⟨w, hq⟩, rfl, rfl⟩
      · exact .inl herr
    · left; rw [renderStep_frame]
    · left; rw [depoisonStep_frame]
    · left; rw [faultStep_frame]
    · exact .inl rfl
    · left; rw [calStep_frame]

/-- The same of a step of the machine that is no RESET: no other input reaches `err`. -/
theorem step_err {s t : State} (hr : NoReset s) (h : step s = .next t) :
    t.err = s.err ∨ (∃ w, s.seq = .busy w .start) ∧ t.err = true ∧ t.seq = .idle := by
  rcases step_cases_noReset hr h with rfl | ⟨-, -, rfl | ⟨w, rfl⟩⟩ | h | h
  · exact .inl (edgeArrives_err s.dropInput)
  · exact .inl rfl
  · exact .inl rfl
  · exact coreStep_err (s := s.dropInput) h
  · exact coreStep_err h

/-- Settles O15: a step keeps `err`, or is a decode step that leaves 1 in it. -/
theorem errChangesOnlyInTheDecodeStep : Obligations.ErrChangesOnlyInTheDecodeStep := by
  unfold Obligations.ErrChangesOnlyInTheDecodeStep
  intro s t hr h
  rcases step_err hr h with he | ⟨⟨w, hq⟩, herr, hidle⟩
  · exact ⟨fun hs => he.trans hs, fun hne => absurd he hne⟩
  · exact ⟨fun _ => herr, fun _ => ⟨w, hq, hidle⟩⟩

/-! ## The tick handler (R113, R114) -/

theorem coreStep_of_edge {s : State} (h : s.tickPending ≠ 0) : coreStep s = .next (tickHandler s) := by
  rw [coreStep, if_neg h]

theorem tickHandler_sec_toNat (s : State) : (tickHandler s).sec.toNat = (s.sec.toNat + 1) % 256 :=
  BitVec.toNat_add ..

theorem tickHandler_live_zero (s : State) : (tickHandler s).live[0].toNat = (tickHandler s).sec.toNat % 60 % 10 := by
  simp [tickHandler]

theorem tickHandler_live_one (s : State) : (tickHandler s).live[1].toNat = (tickHandler s).sec.toNat % 60 / 10 := by
  have hlt : (tickHandler s).sec.toNat % 60 ≤ 159 := by omega
  exact (congrArg BitVec.toNat (Vector.getElem_set_self ..)).trans (tens_toNat hlt)

/-- The handler rewrites the seconds digits alone. -/
theorem tickHandler_live_above (s : State) {p : Position} (h : 2 ≤ p.val) : (tickHandler s).live[p] = s.live[p] := by
  have h0 : 0 ≠ p.val := by omega
  have h1 : 1 ≠ p.val := by omega
  simp [tickHandler, h0, h1]

theorem tickHandler_frame (s : State) :
    tickHandler s =
      { s with sec := (tickHandler s).sec, live := (tickHandler s).live, tickPending := s.tickPending - 1 } := rfl

/-- Settles O16: in each of the ways it can come the STEP is the core's, and the pending edge makes it the handler's. -/
theorem tickHandlerCountsTheSecond : Obligations.TickHandlerCountsTheSecond := by
  unfold Obligations.TickHandlerCountsTheSecond
  intro s n e hn h
  have hcore : step s = coreStep (s.withEnv e) := by
    rcases h with ⟨hw, rfl⟩ | ⟨rest, hi, rfl⟩ | ⟨hi, ho, hf, rfl⟩
    · exact step_waiting hw
    · obtain ⟨hu, ha⟩ := Env.upcoming_cons hi
      rw [step_run hu, State.dropInput_eq, ha]
    · obtain ⟨hu, ha⟩ := (Env.upcoming_nil hi).2 ho
      rw [step_run (hu.trans (congrArg some hf)), State.dropInput_eq, ha]
  have hp : (s.withEnv e).tickPending ≠ 0 := by rw [State.withEnv_tickPending, hn]; nofun
  have hframe := tickHandler_frame (s.withEnv e)
  rw [State.withEnv_tickPending, hn] at hframe
  exact ⟨tickHandler (s.withEnv e), hcore.trans (coreStep_of_edge hp), tickHandler_sec_toNat _, tickHandler_live_zero _,
    tickHandler_live_one _, fun p h2 => tickHandler_live_above _ h2, rfl, hframe⟩

end Sys2Proof.Machine
end

section
/-! SUPPORT. Proofs of the family of 70_reset_and_hazards.md: RESET, and what a step does with the CMD port, the pending
edges and the 1 Hz signal. -/

namespace Sys2Proof.Machine

open Sys2Proof.Safety

/-! ## RESET (R127) -/

/-- Settles O12: RESET is taken in every state, and it is `applyReset`. -/
theorem resetInputAbandonsEverything : Obligations.ResetInputAbandonsEverything := by
  unfold Obligations.ResetInputAbandonsEverything
  intro s hu
  refine ⟨applyReset s.dropInput, ?_, rfl, rfl, rfl, rfl, rfl, rfl, rfl⟩
  simp only [step, machineStep, hu]

/-! ## The CMD port, the pending edges and the 1 Hz signal (R114, R126, R130) -/

/-- A STEP of the core takes at most the one edge its handler counts, and away from Idle it accepts no word. -/
theorem coreStep_edges_cmdIn {s t : State} (h : coreStep s = .next t) :
    t.tickPending = s.tickPending - 1 ∧ (s.seq ≠ .idle → t.cmdIn = s.cmdIn) := by
  rcases coreStep_cases h with ⟨-, rfl⟩ | ⟨h0, hq, rfl⟩ | ⟨h0, k, -, rfl⟩ | ⟨h0, w, k, -, hb⟩
  · exact ⟨rfl, fun _ => rfl⟩
  · refine ⟨?_, fun hne => absurd hq hne⟩
    rw [h0, acceptStep]
    split <;> exact h0
  · rw [faultStep_frame]
    exact ⟨by rw [h0], fun _ => rfl⟩
  · suffices hkeep : t.tickPending = s.tickPending ∧ t.cmdIn = s.cmdIn by
      obtain ⟨ht, hc⟩ := hkeep
      exact ⟨by rw [ht, h0], fun _ => hc⟩
    rcases busyStep_cases hb with ⟨-, -, rfl⟩ | ⟨-, i, -, he⟩ | ⟨_, _, -, rfl⟩ | ⟨_, _, -, rfl⟩ | ⟨_, -, rfl⟩ |
      ⟨-, rfl⟩ | ⟨_, _, -, rfl⟩
    · exact ⟨rfl, rfl⟩
    · rcases exec_cases he with ⟨-, rfl⟩ | ⟨-, -, hc, ht, -⟩
      · exact ⟨rfl, rfl⟩
      · exact ⟨ht, hc⟩
    · rw [renderStep_frame]; exact ⟨rfl, rfl⟩
    · rw [depoisonStep_frame]; exact ⟨rfl, rfl⟩
    · rw [faultStep_frame]; exact ⟨rfl, rfl⟩
    · exact ⟨rfl, rfl⟩
    · rw [calStep_frame]; exact ⟨rfl, rfl⟩

/-- A word on the port while the core is Busy or Halted stays there: no offer is taken, and no word is accepted. -/
theorem step_cmdIn_of_not_idle {s t : State} (hq : s.seq ≠ .idle) (hr : NoReset s) (h : step s = .next t) :
    t.cmdIn = s.cmdIn := by
  rcases step_cases_noReset hr h with rfl | ⟨hi, -⟩ | h | h
  · exact edgeArrives_cmdIn s.dropInput
  · exact absurd hi hq
  · exact (coreStep_edges_cmdIn (s := s.dropInput) h).2 hq
  · exact (coreStep_edges_cmdIn h).2 hq

/-- In Idle with a free port the host's move is taken. -/
theorem step_of_hostMayMove {s : State} (hm : hostMayMove s = true) :
    (∀ w, s.env.upcoming = some (.offer w) → step s = .next { s.dropInput with cmdIn := some w }) ∧
    (s.env.upcoming = some .startTick → step s = .next (tickStarts s.dropInput)) := by
  refine ⟨fun w hu => ?_, fun hu => ?_⟩ <;> simp only [step, machineStep, hu, hm, if_true]

theorem dropInput_tickOn (s : State) : s.dropInput.env.tickOn = s.env.tickOn := Env.advance_tickOn s.env

theorem step_of_tick {s : State} (hu : s.env.upcoming = some .tick) : step s = .next (edgeArrives s.dropInput) := by
  simp only [step, machineStep, hu]

/-- A start of the 1 Hz signal is not a dutiful host's move while another move of its boot comes first. -/
theorem not_dutifulMove_startTick {m : Config.Input} (hm : m ≠ .startTick) (boot rest : List Config.Input) :
    ¬ DutifulMove .startTick (m :: boot) rest := by
  rintro (h | ⟨h, -⟩)
  · exact hm (List.cons.inj h).1
  · cases h

/-- Only the start of the 1 Hz signal turns it on, and while it is off no edge comes to be pending. -/
theorem step_signal_off {s t : State} (h : step s = .next t)
    (hs : s.env.upcoming = some .startTick → hostMayMove s = false) (hoff : s.env.tickOn = false)
    (hp : s.tickPending = 0) : t.env.tickOn = false ∧ t.tickPending = 0 := by
  have hcore {u : State} (hu : coreStep u = .next t) (huoff : u.env.tickOn = false) (hup : u.tickPending = 0) :
      t.env.tickOn = false ∧ t.tickPending = 0 := by
    obtain ⟨-, -, -, hon⟩ := coreStep_arrivals hu
    exact ⟨hon.trans huoff, by rw [(coreStep_edges_cmdIn hu).1, hup]⟩
  have hdrop : s.dropInput.env.tickOn = false := (dropInput_tickOn s).trans hoff
  rcases step_cases h with ⟨-, rfl⟩ | ⟨-, rfl⟩ | ⟨hu, hm, -⟩ | ⟨w, -, -, rfl⟩ | ⟨-, hc⟩ | hc
  · exact ⟨rfl, rfl⟩
  · rw [edgeArrives, hdrop]; exact ⟨hdrop, hp⟩
  · rw [hs hu] at hm; cases hm
  · exact ⟨hdrop, hp⟩
  · exact hcore hc hdrop hp
  · exact hcore hc hoff hp

/-- Settles O8: the host's moves wait by `step_of_hostMove` and are taken by `step_of_hostMayMove`; a dutiful host does
not start the signal before the moves of its boot that come first. -/
theorem offersAndEdgesWait : Obligations.OffersAndEdgesWait := by
  unfold Obligations.OffersAndEdgesWait
  refine ⟨fun s t => step_cmdIn_of_not_idle,
    fun e => ⟨fun i rest => Env.upcoming_cons, fun hi => (Env.upcoming_nil hi).2⟩,
    fun s t w hu hw h => ?_, fun s w hu hq hc => ?_, fun s hu => ⟨fun hon => ?_, fun hoff => ?_⟩,
    fun s hu hq hc => ?_, fun host n m boot s t hk hm hoff hp h => ?_⟩
  · rw [step_of_hostMove hu rfl hw] at h
    have harr := coreStep_arrivals h
    exact ⟨harr.1, harr.upcoming.trans hu⟩
  · exact (step_of_hostMayMove ((hostMayMove_iff s).mpr ⟨hq, hc⟩)).1 w hu
  · rw [step_of_tick hu, edgeArrives, if_pos ((dropInput_tickOn s).trans hon)]; rfl
  · rw [step_of_tick hu, edgeArrives, if_neg (by rw [dropInput_tickOn, hoff]; nofun)]; rfl
  · exact (step_of_hostMayMove ((hostMayMove_iff s).mpr ⟨hq, hc⟩)).2 hu
  · obtain ⟨rest, hkeeps, -⟩ := hk
    refine step_signal_off h (fun hu => ?_) hoff hp
    rw [← Bool.not_eq_true]
    intro hmay
    simp only [HostKeeps, hu, hmay, if_true] at hkeeps
    exact not_dutifulMove_startTick hm boot rest hkeeps

end Sys2Proof.Machine
end

section
/-! SUPPORT. Proofs of the family of 70_reset_and_hazards.md: SETON and SETTOP in both orders, and CAL pass 2 with the
threshold out of the sensor's reach. -/

namespace Sys2Proof.Machine

open Sys2Proof.Safety

/-! ## SETON and SETTOP in both orders (R137) -/

section Orders

variable (a b : Nat) {s : State} (hv : s.cfg.Valid) (hr : PwmInRange s)
include hv

/-- The period after SetPulseWidth is the greater of the old one and what the new pulse width needs. -/
theorem setPulseWidth_pwmTop_max (v : Int) :
    (setPulseWidth v s).pwmTop.toNat = max s.pwmTop.toNat ((setPulseWidth v s).pwmOn.toNat + s.cfg.margin) := by
  rw [setPulseWidth_pwmTop_toNat v hv]
  split <;> omega

/-- The period after SetPeriod of a natural number is the greater of the clamped one and what the pulse width needs. -/
theorem setPeriod_pwmTop_max (hon : s.pwmOn.toNat ≤ s.cfg.pulseMax) :
    (setPeriod a s).pwmTop.toNat = max (min (max a s.cfg.topMin) s.cfg.topMax) (s.pwmOn.toNat + s.cfg.margin) := by
  have h := setPeriod_pwmTop_toNat a hv hon
  omega

include hr

/-- With the period set first, the old pulse width bounds it too. -/
theorem setPulseWidth_setPeriod_pwmTop :
    (setPulseWidth b (setPeriod a s)).pwmTop.toNat =
      max (max (min (max a s.cfg.topMin) s.cfg.topMax) (s.pwmOn.toNat + s.cfg.margin))
        ((setPulseWidth b s).pwmOn.toNat + s.cfg.margin) := by
  obtain ⟨-, hon, -⟩ := hr
  rw [setPulseWidth_pwmTop_max (s := setPeriod a s) hv, setPeriod_pwmTop_max a hv hon]
  rfl

/-- With the pulse width set first, the new one alone bounds the period. -/
theorem setPeriod_setPulseWidth_pwmTop :
    (setPeriod a (setPulseWidth b s)).pwmTop.toNat =
      max (min (max a s.cfg.topMin) s.cfg.topMax) ((setPulseWidth b s).pwmOn.toNat + s.cfg.margin) := by
  obtain ⟨-, hon, -⟩ := setPulseWidth_inRange b hv hr
  exact setPeriod_pwmTop_max (s := setPulseWidth b s) a hv hon

end Orders

/-- Settles O21: the orders agree unless the old pulse width exceeds the new one and holds the period above the clamped
one. -/
theorem setonSettopOrderMatters : Obligations.SetonSettopOrderMatters := by
  unfold Obligations.SetonSettopOrderMatters
  intro s a b hv hr
  have ht := setPulseWidth_setPeriod_pwmTop a.toNat b.toNat hv hr
  have hu := setPeriod_setPulseWidth_pwmTop a.toNat b.toNat hv hr
  refine ⟨(setPeriod a.toNat s).finish, (setPulseWidth b.toNat (setPeriod a.toNat s).finish).finish,
    (setPulseWidth b.toNat s).finish, (setPeriod a.toNat (setPulseWidth b.toNat s).finish).finish, rfl, rfl, rfl, rfl,
    setPulseWidth_pwmOn_toNat b.toNat hv, rfl, ht, hu, ?_⟩
  have hagree :
      (setPulseWidth b.toNat (setPeriod a.toNat s)).pwmTop = (setPeriod a.toNat (setPulseWidth b.toNat s)).pwmTop ↔
      s.pwmOn.toNat ≤ (setPulseWidth b.toNat s).pwmOn.toNat ∨
      s.pwmOn.toNat + s.cfg.margin ≤ min (max a.toNat s.cfg.topMin) s.cfg.topMax := by
    rw [← BitVec.toNat_inj, ht, hu]
    omega
  exact hagree

/-! ## CAL pass 2 with the threshold out of reach (R80, R135) -/

theorem inPass2_pass (w : Word) (c : CalCtx) (n : Nat) (k : PassPos) (j : Nat) :
    inPass2 (.busy w (.cal c (.pass n k (.sample2 j)))) c :=
  ⟨w, j, .inr (.inr ⟨n, k, rfl⟩)⟩

/-- A CalDisplay that comes before the sampling STEP of pass 2 is in pass 2, with display passes left or none. -/
theorem inPass2_calDisplayNext (w : Word) (c : CalCtx) (n j : Nat) :
    inPass2 (.busy w (.cal c (calDisplayNext n (.sample2 j)))) c := by
  refine ⟨w, j, ?_⟩
  rw [calDisplayNext]
  split
  · exact .inl rfl
  · exact .inr (.inl ⟨n, rfl⟩)

theorem exists_of_inPass2 {q : Seq} {c : CalCtx} (h : inPass2 q c) : ∃ w k, q = .busy w (.cal c k) := by
  obtain ⟨w, j, h | ⟨n, h⟩ | ⟨n, k, h⟩⟩ := h <;> exact ⟨w, _, h⟩

section PassTwo

variable {c : CalCtx} {s t : State} (hv : s.cfg.Valid) (ha : AccOk s) (hthr : 2 ^ s.cfg.adcBits - 1 < c.thrNom.toNat)
include hv ha hthr

/-- A STEP of pass 2 stays in it: a display STEP goes on in the display or to the sampling STEP, and the sampling STEP's
reading, at most full scale, is below the threshold. -/
theorem calStep_inPass2 {w : Word} {k : CalPos} (hk : inPass2 (.busy w (.cal c k)) c) :
    inPass2 (calStep w c k s).seq c ∧ AccOk (calStep w c k s) := by
  obtain ⟨w', j, hk | ⟨n, hk⟩ | ⟨n, p, hk⟩⟩ := hk <;> cases hk
  · have hacc := sampleSmoothed_accOk hv ha
    have hbelow : reading (sampleSmoothed s) < c.thrNom.toNat := Nat.lt_of_le_of_lt (reading_le hacc) hthr
    obtain ⟨o, p, hraise⟩ := calRaise_shape j (sampleSmoothed s)
    rw [calStep, calSearch_sample2_below hbelow, hraise]
    exact ⟨inPass2_calDisplayNext .., hacc⟩
  · constructor
    · simp only [calStep]
      split
      · exact inPass2_pass ..
      · exact inPass2_calDisplayNext ..
    · rw [calStep_content_eq, calContent_frame]; exact ha
  · constructor
    · simp only [calStep]
      split
      · exact inPass2_pass ..
      · exact inPass2_calDisplayNext ..
    · rw [calStep_pass_eq, passStep_frame]; exact ha

/-- A STEP of the core in pass 2 is the tick handler or a STEP of pass 2. -/
theorem coreStep_inPass2 (hq : inPass2 s.seq c) (h : coreStep s = .next t) :
    inPass2 t.seq c ∧ AccOk t ∧ t.cfg = s.cfg := by
  obtain ⟨w, k, hs⟩ := exists_of_inPass2 hq
  rcases coreStep_cases h with ⟨-, rfl⟩ | ⟨-, hi, -⟩ | ⟨-, p, hh, -⟩ | ⟨-, w', k', hb, h⟩
  · exact ⟨hq, ha, rfl⟩
  · rw [hs] at hi; cases hi
  · rw [hs] at hh; cases hh
  · rw [hs] at hb
    cases hb
    cases h
    obtain ⟨hin, hacc⟩ := calStep_inPass2 hv ha hthr (hs ▸ hq)
    exact ⟨hin, hacc, by rw [calStep_frame]⟩

end PassTwo

/-- Settles O30: no input but RESET leads out of a command, and each STEP of the core keeps pass 2. -/
theorem calPassTwoCanHang : Obligations.CalPassTwoCanHang := by
  unfold Obligations.CalPassTwoCanHang
  intro s t c hv ha hq hthr hr h
  rcases step_cases_noReset hr h with rfl | ⟨hi, -⟩ | h | h
  · simpa [AccOk] using And.intro hq ha
  · obtain ⟨w, k, hs⟩ := exists_of_inPass2 hq
    rw [hi] at hs; cases hs
  · exact coreStep_inPass2 (s := s.dropInput) hv ha hthr hq h
  · exact coreStep_inPass2 hv ha hthr hq h

end Sys2Proof.Machine
end

section
/-! SUPPORT. Proofs of the family of 70_reset_and_hazards.md: the boot. A host that makes only the moves of a boot keeps
its duties; each command of the boot takes three steps; the state after the boot. -/

namespace Sys2Proof.Machine

open Sys2Proof.Safety

/-! ## A host whose moves are all that comes (R126) -/

/-- These moves of the host come, one after the other, and then nothing. -/
def ComeAlone (moves : List Config.Input) (s : State) : Prop :=
  s.env.inputs = moves ∧ s.env.onward = .quiet ∧ ∀ m ∈ moves, isHostMove m = true

theorem ComeAlone.coreStep {moves : List Config.Input} {s t : State} (h : ComeAlone moves s)
    (ht : coreStep s = .next t) : ComeAlone moves t := by
  obtain ⟨hi, ho, hm⟩ := h
  obtain ⟨hi', ho', -⟩ := coreStep_arrivals ht
  exact ⟨hi'.trans hi, ho'.trans ho, hm⟩

/-- A host's move that comes next is made when the host may move, and else the step is the core's. -/
theorem step_comeAlone_cons {m : Config.Input} {rest : List Config.Input} {s t : State} (host : Config.HostParams)
    (h : ComeAlone (m :: rest) s) (ht : step s = .next t) :
    ∃ left, HostKeeps host s (m :: rest) left ∧ ComeAlone left t := by
  have ⟨hi, ho, hm⟩ := h
  obtain ⟨hhost, hrest⟩ := List.forall_mem_cons.mp hm
  obtain ⟨hu, ha⟩ := Env.upcoming_cons hi
  cases hmay : hostMayMove s with
  | true =>
    obtain ⟨hoffer, hstart⟩ := step_of_hostMayMove hmay
    have hcome : ComeAlone rest s.dropInput :=
      ⟨by rw [State.dropInput_eq, ha]; rfl, (Env.advance_onward _).trans ho, hrest⟩
    refine ⟨rest, ?_⟩
    cases m with
    | run | tick | reset => cases hhost
    | startTick =>
      cases (hstart hu).symm.trans ht
      simp only [HostKeeps, hu, hmay, if_true]
      exact ⟨.inl rfl, hcome⟩
    | offer w =>
      cases (hoffer w hu).symm.trans ht
      simp only [HostKeeps, hu, hmay, if_true]
      exact ⟨.inl rfl, hcome⟩
  | false =>
    rw [step_waiting (.inr ⟨hmay, by rw [hu]; exact hhost⟩)] at ht
    refine ⟨m :: rest, ?_, h.coreStep ht⟩
    cases m with
    | run | tick | reset => cases hhost
    | startTick | offer w => simp [HostKeeps, hu, hmay]

theorem step_comeAlone {moves : List Config.Input} {s t : State} (host : Config.HostParams) (h : ComeAlone moves s)
    (ht : step s = .next t) : ∃ rest, HostKeeps host s moves rest ∧ ComeAlone rest t := by
  cases moves with
  | nil =>
    have hu : s.env.upcoming = none := (Env.upcoming_nil h.1).1 h.2.1
    rw [step_waiting (.inl hu)] at ht
    exact ⟨[], by simp only [HostKeeps, hu], h.coreStep ht⟩
  | cons m rest => exact step_comeAlone_cons host h ht

/-- A host that makes the moves of its boot and no other keeps its duties for ever. -/
theorem keepsDuties_of_comeAlone (host : Config.HostParams) (n : Nat) {moves : List Config.Input} {s : State}
    (h : ComeAlone moves s) : KeepsDuties host n moves s := by
  induction n generalizing moves s with
  | zero => trivial
  | succ n ih =>
    obtain ⟨t, ht⟩ := everyStepProceeds s
    obtain ⟨rest, hkeeps, hrest⟩ := step_comeAlone host h ht
    refine ⟨rest, hkeeps, fun t' ht' => ?_⟩
    cases ht.symm.trans ht'
    exact ih hrest

/-! ## One move of the boot (R21, R126) -/

/-- The core is ready for the host's next move, and no edge is pending. -/
def AtReady (s : State) : Prop := s.seq = .idle ∧ s.cmdIn = none ∧ s.tickPending = 0

section OneMove

variable {s t : State} {rest : List Config.Input} (hm : ∀ m ∈ rest, isHostMove m = true)
include hm

/-- While the host may not move, the next STEP is the sequencer's. -/
theorem alone_hostMakes (hbusy : hostMayMove s = false) (hp : s.tickPending = 0) : Alone (hostMakes rest s) := by
  refine ⟨?_, hp⟩
  cases rest with
  | nil => exact .inl rfl
  | cons m rest => exact .inr ⟨hbusy, (List.forall_mem_cons.mp hm).1⟩

/-- A command of a host that waits for READY takes three steps: the offer, the acceptance, and its STEP. -/
theorem reaches_command {i : Instr} (hs : AtReady s)
    (hx : exec i (hostMakes rest (s.goTo (encode i) .start)) = .next (hostMakes rest t)) :
    Reaches 3 (hostMakes (.offer (encode i) :: rest) s) (hostMakes rest t) := by
  obtain ⟨hq, hc, hp⟩ := hs
  have hmay : hostMayMove (hostMakes (.offer (encode i) :: rest) s) = true := (hostMayMove_iff _).mpr ⟨hq, hc⟩
  have hoffer : step (hostMakes (.offer (encode i) :: rest) s) =
      .next (hostMakes rest { s with cmdIn := some (encode i) }) := (step_of_hostMayMove hmay).1 _ rfl
  have haccept : step (hostMakes rest { s with cmdIn := some (encode i) }) =
      .next (hostMakes rest (s.goTo (encode i) .start)) := by
    have halone : Alone (hostMakes rest { s with cmdIn := some (encode i) }) :=
      alone_hostMakes hm (by simp [hostMayMove]) hp
    rw [(acceptanceHappensInIdle _ halone hq).1 _ rfl, State.goTo, State.withSeq, ← hc]
    rfl
  have hdecode : step (hostMakes rest (s.goTo (encode i) .start)) = .next (hostMakes rest t) := by
    have halone : Alone (hostMakes rest (s.goTo (encode i) .start)) := alone_hostMakes hm (by simp [hostMayMove]) hp
    rw [step_alone halone, ← hx]
    simp only [seqStep, hostMakes, State.goTo_eq, State.withEnv_seq, State.withSeq_seq, busyStep, decode_encode]
  exact .step hoffer (.step haccept (.step hdecode (reaches_zero.mpr rfl)))

end OneMove

theorem reaches_startTick {s : State} {rest : List Config.Input} (hs : AtReady s) :
    Reaches 1 (hostMakes (.startTick :: rest) s) (hostMakes rest (tickStarts s)) := by
  obtain ⟨hq, hc, -⟩ := hs
  have hmay : hostMayMove (hostMakes (.startTick :: rest) s) = true := (hostMayMove_iff _).mpr ⟨hq, hc⟩
  exact .step ((step_of_hostMayMove hmay).2 rfl) (reaches_zero.mpr rfl)

/-! ## The boot (R128, R129) -/

theorem isHostMove_offers {cs : List Instr} : ∀ m ∈ offers cs, isHostMove m = true := by
  intro m hm
  obtain ⟨i, -, rfl⟩ := List.mem_map.mp hm
  rfl

/-- A loaded field is within its bounds, or is the default (R128). -/
theorem loadField_cases (slot : Option Nat) (lo hi dflt : Nat) :
    loadField slot lo hi dflt = dflt ∨ lo ≤ loadField slot lo hi dflt ∧ loadField slot lo hi dflt ≤ hi := by
  cases slot with
  | none => exact .inl rfl
  | some v =>
    simp only [loadField]
    split
    · exact .inr ‹_›
    · exact .inl rfl

theorem loadTarget_cases (c : Config.Params) (slot : Option (BitVec 8)) :
    loadTarget c slot = c.targetDefault ∨
      Config.targetMinV ≤ loadTarget c slot ∧ loadTarget c slot ≤ Config.targetMaxV :=
  loadField_cases ..

theorem loadTarget_toNat {c : Config.Params} (hc : c.Valid) (slot : Option (BitVec 8)) :
    (BitVec.ofNat 8 (loadTarget c slot)).toNat = loadTarget c slot := by
  obtain ⟨-, -, -, -, -, -, -, -, -, hdflt, -⟩ := hc
  have h := loadTarget_cases c slot
  simp only [Config.targetMaxV] at h
  exact (BitVec.toNat_ofNat ..).trans (Nat.mod_eq_of_lt (by omega))

/-- The state SETTGT leaves. -/
def targetState (target : BitVec 8) (s : State) : State :=
  { s with target := target, thr := BitVec.ofNat 16 (thresholdFor s.cfg target.toNat), seq := .idle }

/-- The state SETTGT, SETON and SETTOP leave (R128 step 2). -/
def loadedState (target : BitVec 8) (pulse period : BitVec 16) (s : State) : State :=
  setPeriod period.toNat (setPulseWidth pulse.toNat (targetState target s))

/-- The state a SHOWTIME of a clock read leaves. -/
def shownState (read : Config.ClockAnswer) (s : State) : State :=
  { s with
    live := frameOf read.second read.minute read.hour
    sec := BitVec.ofNat 8 read.second
    mask := if s.ui = .idle then blankMask read.hour else s.mask
    seq := .idle }

/-- The state HVEN leaves. -/
def enabledState (s : State) : State :=
  { s with gate := true, hvlife := if s.hvlife = .disabled then .steady else s.hvlife, seq := .idle }

/-- The state the start of the signal, SHOWTIME and HVEN leave (R128 steps 5 to 7). -/
def launchedState (read : Config.ClockAnswer) (s : State) : State := enabledState (shownState read (tickStarts s))

theorem loadedState_pwmInRange (target : BitVec 8) (pulse period : BitVec 16) {s : State} (hv : s.cfg.Valid)
    (h : PwmInRange s) : PwmInRange (loadedState target pulse period s) := by
  have htarget : PwmInRange (targetState target s) := h
  have hpulse := setPulseWidth_inRange (s := targetState target s) pulse.toNat hv htarget
  exact setPeriod_inRange (s := setPulseWidth pulse.toNat (targetState target s)) period.toNat hv hpulse

theorem launchedState_pwmInRange (read : Config.ClockAnswer) {s : State} (h : PwmInRange s) :
    PwmInRange (launchedState read s) := h

/-- A byte holds a minute, a second or an hour. -/
theorem byte_toNat {n : Nat} (h : n ≤ 59) : (BitVec.ofNat 8 n).toNat = n :=
  (BitVec.toNat_ofNat ..).trans (Nat.mod_eq_of_lt (by omega))

/-- A SHOWTIME of a clock read in R16's ranges is well formed and shows the read as it is. -/
theorem exec_showtimeOf {read : Config.ClockAnswer} (hr : read.InRange) (s : State) :
    exec (showtimeOf read) s = .next (shownState read s) := by
  obtain ⟨-, -, -, -, hhour, hminute, hsecond⟩ := hr
  have hh : (BitVec.ofNat 8 read.hour).toNat = read.hour := byte_toNat (by omega)
  have hm := byte_toNat hminute
  have hs := byte_toNat hsecond
  have hwf : (showtimeOf read).wellFormed = true := by
    have ⟨_, _, _, hiff, _⟩ := wellFormedIsTheRangeTable
    rw [showtimeOf, hiff, hh, hm, hs]
    exact ⟨hhour, hminute, hsecond⟩
  rw [showtimeOf, exec_showtime_inRange hwf, hh, hm, hs]
  rfl

theorem reaches_loadedState (target : BitVec 8) (pulse period : BitVec 16) {s : State} {rest : List Config.Input}
    (hs : AtReady s) (hrest : ∀ m ∈ rest, isHostMove m = true) :
    Reaches 9 (hostMakes (offers [.settgt target, .seton pulse, .settop period] ++ rest) s)
      (hostMakes rest (loadedState target pulse period s)) := by
  have ⟨_, hc, hp⟩ := hs
  have hperiod : ∀ m ∈ .offer (encode (.settop period)) :: rest, isHostMove m = true :=
    List.forall_mem_cons.mpr ⟨rfl, hrest⟩
  have hpulse : ∀ m ∈ .offer (encode (.seton pulse)) :: .offer (encode (.settop period)) :: rest,
      isHostMove m = true := List.forall_mem_cons.mpr ⟨rfl, hperiod⟩
  have h1 := reaches_command (t := targetState target s) hpulse (i := .settgt target) hs rfl
  have h2 := reaches_command (t := setPulseWidth pulse.toNat (targetState target s)) hperiod (i := .seton pulse)
    (s := targetState target s) ⟨rfl, hc, hp⟩ rfl
  have h3 := reaches_command (t := loadedState target pulse period s) hrest (i := .settop period)
    (s := setPulseWidth pulse.toNat (targetState target s)) ⟨rfl, hc, hp⟩ rfl
  exact h1.trans (h2.trans h3)

theorem reaches_launchedState {read : Config.ClockAnswer} (hr : read.InRange) {s : State} (hs : AtReady s) :
    Reaches 7 (hostMakes (afterChecks read false) s) (hostMakes [] (launchedState read s)) := by
  have ⟨hq, hc, hp⟩ := hs
  have h1 := reaches_startTick (rest := offers (showAndEnable read)) hs
  have h2 := reaches_command (t := shownState read (tickStarts s)) (isHostMove_offers (cs := [.hven]))
    (i := showtimeOf read) (s := tickStarts s) ⟨hq, hc, hp⟩ (exec_showtimeOf hr _)
  have h3 := reaches_command (t := launchedState read s) (rest := []) nofun (i := .hven)
    (s := shownState read (tickStarts s)) ⟨rfl, hc, hp⟩ rfl
  exact h1.trans (h2.trans h3)

/-- The state at the end of a boot from reset without a trim, with the clock present and without CAL. -/
def bootedState (c : Config.Params) (pulse period : Option (BitVec 16)) (target : Option (BitVec 8))
    (read : Config.ClockAnswer) : State :=
  launchedState read (loadedState (BitVec.ofNat 8 (loadTarget c target)) (BitVec.ofNat 16 (loadPulse c pulse))
    (BitVec.ofNat 16 (loadPeriod c period)) (State.resetOf c))

section Boot

variable {c : Config.Params} (hc : c.Valid) {read : Config.ClockAnswer} (hr : read.InRange)
  (pulse period : Option (BitVec 16)) (target : Option (BitVec 8))

theorem isHostMove_afterChecks (cal : Bool) : ∀ m ∈ afterChecks read cal, isHostMove m = true :=
  List.forall_mem_cons.mpr ⟨rfl, isHostMove_offers⟩

theorem comeAlone_bootOrder (host : Config.HostParams) :
    let moves := bootOrder c host pulse period target [] .present read false
    ComeAlone moves (hostMakes moves (State.resetOf c)) :=
  ⟨rfl, rfl, List.forall_mem_append.mpr ⟨isHostMove_offers, isHostMove_afterChecks false⟩⟩

include hr in
theorem reaches_bootedState (host : Config.HostParams) :
    Reaches 16 (hostMakes (bootOrder c host pulse period target [] .present read false) (State.resetOf c))
      (hostMakes [] (bootedState c pulse period target read)) :=
  (reaches_loadedState _ _ _ ⟨rfl, rfl, rfl⟩ (isHostMove_afterChecks false)).trans
    (reaches_launchedState hr ⟨rfl, rfl, rfl⟩)

include hr in
theorem bootedState_sec_toNat : (bootedState c pulse period target read).sec.toNat = read.second := by
  obtain ⟨-, -, -, -, -, -, hs⟩ := hr
  exact byte_toNat hs

include hc

theorem bootedState_pwmInRange : PwmInRange (bootedState c pulse period target read) :=
  launchedState_pwmInRange read (loadedState_pwmInRange _ _ _ hc (resetOf_pwmInRange hc))

theorem bootedState_target_toNat : (bootedState c pulse period target read).target.toNat = loadTarget c target :=
  loadTarget_toNat hc target

include hr

/-- All of R129 but the target's bounds holds after the boot, whatever the settings store held. -/
theorem bootClean_bootedState_iff :
    BootClean (hostMakes [] (bootedState c pulse period target read)) ↔
      Config.targetMinV ≤ loadTarget c target ∧ loadTarget c target ≤ Config.targetMaxV := by
  have htarget := bootedState_target_toNat (read := read) hc pulse period target
  have hsec := bootedState_sec_toNat (c := c) hr pulse period target
  obtain ⟨-, -, -, -, hhour, hminute, hsecond⟩ := hr
  rw [← htarget]
  constructor
  · rintro ⟨-, -, -, -, -, -, hlo, hhi, -⟩
    exact ⟨hlo, hhi⟩
  · rintro ⟨hlo, hhi⟩
    exact ⟨rfl, rfl, rfl, rfl, rfl, bootedState_pwmInRange hc pulse period target, hlo, hhi,
      .inl (hsec.trans_lt (Nat.lt_succ_of_le hsecond)), ⟨read.hour, read.minute, hhour, hminute, rfl, rfl, rfl, rfl⟩,
      ⟨read.second, hsecond, rfl, rfl⟩⟩

end Boot

/-- Settles O56: the 16 steps are `reaches_bootedState`, and only the target's bounds are left open at their end. -/
theorem bootReachesItsCleanState : Obligations.BootReachesItsCleanState := by
  unfold Obligations.BootReachesItsCleanState
  intro c host pulse period target read hc hr
  have hclean := bootClean_bootedState_iff hc hr pulse period target
  refine ⟨_, rfl, fun n => keepsDuties_of_comeAlone host n (comeAlone_bootOrder pulse period target host),
    hostMakes [] (bootedState c pulse period target read), reaches_bootedState hr pulse period target host, rfl, rfl,
    rfl, bootedState_sec_toNat (c := c) hr pulse period target, rfl,
    bootedState_target_toNat hc pulse period target, hclean,
    fun hlo hhi => hclean.mpr ?_⟩
  rcases loadTarget_cases c target with hdflt | hbounds
  · exact hdflt ▸ ⟨hlo, hhi⟩
  · exact hbounds

end Sys2Proof.Machine
end
